-- ==== Sys2Proof/Word.lean ====
section
/-! DEFINITION. The three bit-vector widths of the block: the bus word (8 bits, R51), the Y counter
(16 bits, R70) and the request word (32 bits, R63). Every value is unsigned (R10). -/

namespace Sys2Proof

/-- One bus word, one command byte, one payload byte: 8 bits (R10, R51). -/
abbrev Byte := BitVec 8

/-- The Y counter value: 16 bits (R64, R70). -/
abbrev Half := BitVec 16

/-- The request word `RQ`: 32 bits (R63). -/
abbrev Word := BitVec 32

end Sys2Proof
end

