-- ==== Sys2Proof/Config.lean ====
section
/-! DEFINITION. The configuration record of R9 (hardwired, R32), the types of the transport's answers
(R11, R13, R15), and the open parameters and free values of the model: constants with no body. -/

namespace Sys2Proof

/-- A level driven on, or sampled from, a line: `L` is logic 0, `H` is logic 1 (R16). -/
inductive Level
  | L
  | H
  deriving DecidableEq, Repr, Inhabited

/-- Which names stand for native failure values of the serial bus: the parameter behind the opaque type
`BusFault` (R15). No body (log 3): there may be none, some or infinitely many. -/
opaque Config.isBusFault : Nat → Bool

/-- Which names stand for native failure values of a pin: the parameter behind the opaque type `PinFault`
(R15, log 3). -/
opaque Config.isPinFault : Nat → Bool

/-- A native failure value of the serial bus (R15): an opaque type, a parameter of the model. It is given by a
set of names that has no body, so nothing can be proved about how many values it has or which they are. -/
structure BusFault where
  name : Nat
  valid : Config.isBusFault name = true
  deriving DecidableEq, Repr

/-- A native failure value of a pin (R15): an opaque type, a parameter of the model, as `BusFault`. -/
structure PinFault where
  name : Nat
  valid : Config.isPinFault name = true
  deriving DecidableEq, Repr

/-- The transport's answer to a `PinSet` (R11). -/
inductive PinAnswer
  | ok
  | err (e : PinFault)
  deriving DecidableEq, Repr, Inhabited

/-- The transport's answer to a `PinRead(BUSY)` (R11, R13): a level or a failure. -/
inductive BusyAnswer
  | ok (lvl : Level)
  | err (e : PinFault)
  deriving DecidableEq, Repr, Inhabited

/-- The transport's answer to a `BusWrite` (R11). -/
inductive BusAnswer
  | ok
  | err (e : BusFault)
  deriving DecidableEq, Repr, Inhabited

/-- The thirteen controller commands, by the source's names (R76). -/
inductive Command
  | swReset
  | driverOutputControl
  | dataEntryMode
  | ramXWindow
  | ramYWindow
  | ramXCounter
  | ramYCounter
  | borderWaveform
  | duc1
  | duc2
  | writeRamBw
  | writeRamRed
  | masterActivation
  deriving DecidableEq, Repr, Inhabited

/-- The command set in the order of R76's table. -/
def Command.all : List Command :=
  [.swReset, .driverOutputControl, .dataEntryMode, .ramXWindow, .ramYWindow, .ramXCounter, .ramYCounter,
   .borderWaveform, .duc1, .duc2, .writeRamBw, .writeRamRed, .masterActivation]

/-- The thirteen configured command bytes `OPC_*` (R9, R76). -/
structure Opcodes where
  swReset : Byte
  driverOutputControl : Byte
  dataEntryMode : Byte
  ramXWindow : Byte
  ramYWindow : Byte
  ramXCounter : Byte
  ramYCounter : Byte
  borderWaveform : Byte
  duc1 : Byte
  duc2 : Byte
  writeRamBw : Byte
  writeRamRed : Byte
  masterActivation : Byte
  deriving DecidableEq, Repr, Inhabited

/-- The configured byte of a command (R76). -/
def Opcodes.byte (t : Opcodes) : Command → Byte
  | .swReset => t.swReset
  | .driverOutputControl => t.driverOutputControl
  | .dataEntryMode => t.dataEntryMode
  | .ramXWindow => t.ramXWindow
  | .ramYWindow => t.ramYWindow
  | .ramXCounter => t.ramXCounter
  | .ramYCounter => t.ramYCounter
  | .borderWaveform => t.borderWaveform
  | .duc1 => t.duc1
  | .duc2 => t.duc2
  | .writeRamBw => t.writeRamBw
  | .writeRamRed => t.writeRamRed
  | .masterActivation => t.masterActivation

/-- The thirteen bytes in the order of R76's table. -/
def Opcodes.bytes (t : Opcodes) : List Byte := Command.all.map t.byte

/-- Membership in the closed command set (R69). -/
def Opcodes.holds (t : Opcodes) (b : Byte) : Bool := t.bytes.contains b

/-- The thirteen values are pairwise distinct (R9, R76). -/
def Opcodes.distinct (t : Opcodes) : Bool := decide t.bytes.Nodup

/-- What a plane write of the wrong length does (R9, R126). -/
inductive LenPolicy
  | failFast
  | refuse
  deriving DecidableEq, Repr, Inhabited

/-- The configuration record (R9), the panel geometry `ROWS`, `COLS`, `PLANE_BYTES` in it (R7, log 4). -/
structure Config where
  opcodes : Opcodes
  demPayload : List Byte
  bwfPayload : Option (List Byte)
  duc1Payload : Option (List Byte)
  duc2Payload : Option (List Byte)
  csReleaseOnFail : Bool
  busyMaxSamples : Option Nat
  lenPolicy : LenPolicy
  tResetLowMs : Nat
  tResetHighMs : Nat
  tPollMs : Nat
  rows : Nat
  cols : Nat
  planeBytes : Nat
  deriving DecidableEq, Repr, Inhabited

/-- The side conditions R9 puts on the record: distinct command bytes, a data-entry-mode payload of at
least one byte, and a poll bound of at least 1 where there is one. -/
def Config.wellFormed (c : Config) : Bool :=
  c.opcodes.distinct && !c.demPayload.isEmpty && (match c.busyMaxSamples with | none => true | some n => decide (1 ≤ n))

/-- The record has the geometry that R7 fixes for this panel variant. -/
def Config.panelGeometry (c : Config) : Bool := c.rows == 212 && c.cols == 104 && c.planeBytes == 2756

namespace Config

/-! ### Open parameters of this hardware (log 2): no body, so no proof can see their values. -/

/-- A free permutation of the byte values. Its first thirteen images are the command bytes of this
hardware: every pairwise-distinct choice of thirteen bytes is such a list, and no other (R76). -/
opaque openByteOrder : Equiv.Perm Byte

/-- First byte of the open `DEM_PAYLOAD` (R79: at least one byte). -/
opaque openDemHead : Byte

/-- The rest of the open `DEM_PAYLOAD` (R79). -/
opaque openDemTail : List Byte

/-- The open `BWF_PAYLOAD` (R82). -/
opaque openBwfPayload : Option (List Byte)

/-- The open `DUC1_PAYLOAD` (R82). -/
opaque openDuc1Payload : Option (List Byte)

/-- The open `DUC2_PAYLOAD` (R82). -/
opaque openDuc2Payload : Option (List Byte)

/-! ### Free draws (R15, log 5) and free values (R21, log 7), one per counter value. -/

/-- The transport's answer to the n-th `PinSet` that no queued answer covers. -/
opaque freePinAnswer : Nat → PinAnswer

/-- The BUSY sample that no queued sample covers. -/
opaque freeBusyAnswer : Nat → BusyAnswer

/-- The transport's answer to the n-th `BusWrite` that no queued answer covers. -/
opaque freeBusAnswer : Nat → BusAnswer

/-- `OPL_B` after an operation has ended (R21: unspecified). -/
opaque freeOplB : Nat → Byte

/-- `OPL_Y` after an operation has ended (R21: unspecified). -/
opaque freeOplY : Nat → Half

/-- `OPL_PRES` after an operation has ended (R21: unspecified). -/
opaque freeOplPres : Nat → Bool

/-- `OPL_PSEL` after an operation has ended (R21: unspecified). -/
opaque freeOplPsel : Nat → Bool

/-- `OPL_P` after an operation has ended (R21: unspecified). -/
opaque freeOplP : Nat → List Byte

end Config

end Sys2Proof
end

