-- ==== Sys2Proof/Machine/Hardware.lean ====
section
/-! DEFINITION. The two constants derived from the geometry (R8), and the configuration record of this hardware
with the values R9 gives it, the geometry of R7 among them. The OPEN parameters take the body-less constants of Config.lean (log 2). -/

namespace Sys2Proof

/-- `XEND`, the last byte column, `COLS / 8 − 1` (R8), one byte wide (R80, log 4). -/
def Config.xend (c : Config) : Byte := BitVec.ofNat 8 (c.cols / 8 - 1)

/-- `YEND`, the last row, `ROWS − 1` (R8), 16 bits wide (R81, log 4). -/
def Config.yend (c : Config) : Half := BitVec.ofNat 16 (c.rows - 1)

/-- The command bytes of this hardware: thirteen images of the free permutation, so pairwise distinct and
otherwise unconstrained (R76, log 2). -/
def Config.openOpcodes : Opcodes where
  swReset := Config.openByteOrder 0
  driverOutputControl := Config.openByteOrder 1
  dataEntryMode := Config.openByteOrder 2
  ramXWindow := Config.openByteOrder 3
  ramYWindow := Config.openByteOrder 4
  ramXCounter := Config.openByteOrder 5
  ramYCounter := Config.openByteOrder 6
  borderWaveform := Config.openByteOrder 7
  duc1 := Config.openByteOrder 8
  duc2 := Config.openByteOrder 9
  writeRamBw := Config.openByteOrder 10
  writeRamRed := Config.openByteOrder 11
  masterActivation := Config.openByteOrder 12

/-- The configuration record of this hardware (R9). -/
def Config.thisHardware : Config where
  opcodes := Config.openOpcodes
  demPayload := Config.openDemHead :: Config.openDemTail
  bwfPayload := Config.openBwfPayload
  duc1Payload := Config.openDuc1Payload
  duc2Payload := Config.openDuc2Payload
  csReleaseOnFail := false
  busyMaxSamples := none
  lenPolicy := .failFast
  tResetLowMs := 100
  tResetHighMs := 100
  tPollMs := 10
  rows := 212
  cols := 104
  planeBytes := 2756

end Sys2Proof
end

