-- ==== Sys2Proof/Syntax.lean ====
section
/-! DEFINITION. The instructions: one constructor per row of spec/opcode_table.json. The nine host
operations (R66), the reserved `OP` row (R84), the two pseudo-instructions (R87), and the thirteen
wire commands (R76), each sent raw with or without a payload (R77). -/

namespace Sys2Proof

/-- The plane selector of UPDATE_PLANE (R71). -/
inductive Plane
  | bw
  | red
  deriving DecidableEq, Repr, Inhabited

/-- What the REQ port carries: a request word `RQ` and a payload byte sequence `P` beside it (R63, R65). -/
structure Request where
  word : Word
  payload : List Byte
  deriving DecidableEq, Repr, Inhabited

/-- One request to the block, decoded. -/
inductive Instr
  /-- SEND_COMMAND (R92): the command byte. -/
  | sendCommand (c : Byte)
  /-- SEND_DATA (R93): the payload. -/
  | sendData (P : List Byte)
  /-- SEND_COMMAND_DATA (R94): the command byte and the optional payload. -/
  | sendCommandData (c : Byte) (opt : Option (List Byte))
  /-- RESET (R101). -/
  | reset
  /-- BUSY_WAIT (R103). -/
  | busyWait
  /-- SET_ADDRESS_COUNTER (R111): the X and Y counter values. -/
  | setAddressCounter (x : Byte) (y : Half)
  /-- INIT (R112). -/
  | init
  /-- UPDATE_PLANE (R125): the plane and its buffer, of any length (R126 checks it). -/
  | updatePlane (sel : Plane) (buf : List Byte)
  /-- REFRESH (R128). -/
  | refresh
  /-- The pseudo-instruction `update_bw` (R87). -/
  | updateBw (buf : List Byte)
  /-- The pseudo-instruction `update_red` (R87). -/
  | updateRed (buf : List Byte)
  /-- A request whose `OP` is reserved (R66, R84): its word and its payload. -/
  | reservedOp (rq : Word) (P : List Byte)
  /-- software-reset, sent raw (R76, R77). -/
  | opcSwReset (opt : Option (List Byte))
  /-- driver-output-control, sent raw (R76, R77). -/
  | opcDriverOutputControl (opt : Option (List Byte))
  /-- data-entry-mode-setting, sent raw (R76, R77). -/
  | opcDataEntryMode (opt : Option (List Byte))
  /-- RAM-X-window, sent raw (R76, R77). -/
  | opcRamXWindow (opt : Option (List Byte))
  /-- RAM-Y-window, sent raw (R76, R77). -/
  | opcRamYWindow (opt : Option (List Byte))
  /-- RAM-X-counter, sent raw (R76, R77). -/
  | opcRamXCounter (opt : Option (List Byte))
  /-- RAM-Y-counter, sent raw (R76, R77). -/
  | opcRamYCounter (opt : Option (List Byte))
  /-- border-waveform-control, sent raw (R76, R77). -/
  | opcBorderWaveform (opt : Option (List Byte))
  /-- display-update-control-1, sent raw (R76, R77). -/
  | opcDuc1 (opt : Option (List Byte))
  /-- display-update-control-2, sent raw (R76, R77). -/
  | opcDuc2 (opt : Option (List Byte))
  /-- write-RAM-black/white, sent raw (R76, R77). -/
  | opcWriteRamBw (opt : Option (List Byte))
  /-- write-RAM-red, sent raw (R76, R77). -/
  | opcWriteRamRed (opt : Option (List Byte))
  /-- master-activation, sent raw (R76, R77). -/
  | opcMasterActivation (opt : Option (List Byte))
  deriving DecidableEq, Repr, Inhabited

end Sys2Proof
end

