-- ==== Sys2Proof/Machine/State.lean ====
section
/-! DEFINITION. The state of the block as plain data (R20), with the environment a step reads: the host's
requests, the transport's answers, and the event history (R13). Reset is R155. -/

namespace Sys2Proof.Machine

/-- The three output lines (R6, R29). -/
inductive OutPin
  | CS
  | DC
  | RST
  deriving DecidableEq, Repr, Inhabited

/-- What `PIN[p]` holds (R29): the last level driven successfully, or `U`, not known. -/
inductive PinLevel
  | L
  | H
  | U
  deriving DecidableEq, Repr, Inhabited

/-- The driver state machine (R23). The reserved value 7 has no constructor: it is never held. -/
inductive Phase
  | UNINITIALIZED
  | RESETTING
  | READY_TO_INIT
  | INITIALIZED
  | PLANES_STAGED
  | REFRESHED
  | FAULTED
  deriving DecidableEq, Repr, Inhabited

/-- The nine operations (R66). -/
inductive Operation
  | sendCommand
  | sendData
  | sendCommandData
  | reset
  | busyWait
  | setAddressCounter
  | init
  | updatePlane
  | refresh
  deriving DecidableEq, Repr, Inhabited

/-- `SEQ` (R22): `IDLE`, or an operation and the position of its next primitive (`µPC`), counting from 0. -/
inductive Seq
  | idle
  /-- the next primitive is number `pos` of the operation's sequence -/
  | run (op : Operation) (pos : Nat)
  /-- the next primitive is the chip-select release in the `on err(e)` branch of the write number `pos` (R90);
  the position holds the `e` that the branch has bound (log 18) -/
  | release (op : Operation) (pos : Nat) (e : BusFault)
  deriving DecidableEq, Repr, Inhabited

/-- The result codes (R135). Codes 6 and 7 have no constructor: they are never produced. -/
inductive RspCode
  | ok
  | busError
  | pinError
  | timeout
  | lengthMismatch
  | refused
  deriving DecidableEq, Repr, Inhabited

/-- A native failure value in a response (R135). -/
inductive Native
  | bus (e : BusFault)
  | pin (e : PinFault)
  deriving DecidableEq, Repr

/-- What `LAST_RSP` holds of one response (R28). -/
structure Response where
  code : RspCode
  native : Option Native
  phase : Phase
  viol : Bool
  refd : Bool
  deriving DecidableEq, Repr, Inhabited

/-- The events of the history (R13). -/
inductive Event
  | set (p : OutPin) (lvl : Level) (a : PinAnswer)
  | sample (a : BusyAnswer)
  | write (P : List Byte) (a : BusAnswer)
  | sleep (ms : Nat)
  | req (word : Word) (P : List Byte)
  | rsp (code : RspCode) (native : Option Native)
  deriving DecidableEq, Repr, Inhabited

/-- The operand latches `OPL_B`, `OPL_Y`, `OPL_PRES`, `OPL_PSEL`, `OPL_P` (R21). -/
structure Latches where
  b : Byte
  y : Half
  pres : Bool
  psel : Bool
  p : List Byte
  deriving DecidableEq, Repr, Inhabited

/-- The upcoming answers of one kind (R15): those given beforehand, oldest first, and how many free draws
have been made since they ran out (log 5). The MODEL's own. -/
structure Answers (α : Type) where
  queued : List α
  drawn : Nat
  deriving DecidableEq, Repr, Inhabited

/-- The state. The first nine fields after `cfg` are the block's (R20); the rest is its environment. -/
structure State where
  /-- the hardwired configuration record (R9, R32, log 1) -/
  cfg : Config
  /-- `PHASE` (R23) -/
  phase : Phase
  /-- `VIOL` (R26) -/
  viol : Bool
  /-- `REFD` (R27) -/
  refd : Bool
  /-- `LAST_RSP` (R28) -/
  lastRsp : Option Response
  /-- `PIN[CS]` (R29) -/
  pinCS : PinLevel
  /-- `PIN[DC]` (R29) -/
  pinDC : PinLevel
  /-- `PIN[RST]` (R29) -/
  pinRST : PinLevel
  /-- `SEQ` (R22) -/
  seq : Seq
  /-- the operand latches (R21) -/
  latches : Latches
  /-- `POLLS` (R31) -/
  polls : Nat
  /-- the host's requests not yet accepted, oldest first (R5, R37) -/
  requests : List Request
  /-- the transport's answers to `PinSet` (R15) -/
  pinIn : Answers PinAnswer
  /-- the BUSY samples (R15) -/
  busyIn : Answers BusyAnswer
  /-- the transport's answers to `BusWrite` (R15) -/
  busIn : Answers BusAnswer
  /-- how often the latches have taken unspecified values (R21, log 7) -/
  freed : Nat
  /-- the event history, oldest first (R13) -/
  history : List Event
  deriving DecidableEq, Repr, Inhabited

/-- Why the machine stops with a fault: never. A transport failure, a timeout and a bad request all end in a
response and the block goes on (R135, R142), so no constructor is needed. Safe: nothing is cut short. -/
inductive Fault
  deriving DecidableEq, Repr

/-- Why the model has no meaning for an instruction. The block's own answer `REFUSED` (R140) is not this: it
is a response, and the machine goes on. -/
inductive Refusal
  /-- Raised by an arm of `exec` that has no meaning yet, with the table's mnemonic. Safe: the run stops. -/
  | notModelled (mnemonic : String)
  deriving DecidableEq, Repr

/-- The state right after block reset (R155, R156). The latches and `POLLS`, which the spec leaves
unspecified there, hold 0 or the empty sequence (DESIGN CHOICE, log 6). -/
def State.reset : State where
  cfg := Config.thisHardware
  phase := .UNINITIALIZED
  viol := false
  refd := false
  lastRsp := none
  pinCS := .U
  pinDC := .U
  pinRST := .U
  seq := .idle
  latches := ⟨0#8, 0#16, false, false, []⟩
  polls := 0
  requests := []
  pinIn := ⟨[], 0⟩
  busyIn := ⟨[], 0⟩
  busIn := ⟨[], 0⟩
  freed := 0
  history := []

end Sys2Proof.Machine
end

