-- ==== Sys2Proof/Machine/Flags.lean ====
section
/-! DEFINITION. The status registers `PHASE`, `VIOL`, `REFD` and the result codes: their encodings, the
phase table (R25) and the rules that set the sticky bits (R26, R27). -/

namespace Sys2Proof.Machine

/-- The 3-bit encoding of `PHASE` (R23). -/
def Phase.code : Phase → BitVec 3
  | .UNINITIALIZED => 0#3
  | .RESETTING => 1#3
  | .READY_TO_INIT => 2#3
  | .INITIALIZED => 3#3
  | .PLANES_STAGED => 4#3
  | .REFRESHED => 5#3
  | .FAULTED => 6#3

/-- The 3-bit encoding of a result code (R135). -/
def RspCode.code : RspCode → BitVec 3
  | .ok => 0#3
  | .busError => 1#3
  | .pinError => 2#3
  | .timeout => 3#3
  | .lengthMismatch => 4#3
  | .refused => 5#3

/-- The phases after a completed INIT: `INITIALIZED`, `PLANES_STAGED`, `REFRESHED` (R25). -/
def Phase.configured : Phase → Bool
  | .INITIALIZED => true
  | .PLANES_STAGED => true
  | .REFRESHED => true
  | .UNINITIALIZED => false
  | .RESETTING => false
  | .READY_TO_INIT => false
  | .FAULTED => false

/-- The phase table's second column (R25): the phases in which an operation is valid. -/
def Operation.validIn : Operation → Phase → Bool
  | .sendCommand, ph => ph.configured
  | .sendData, ph => ph.configured
  | .sendCommandData, ph => ph.configured
  | .reset, _ => true
  | .busyWait, _ => true
  | .setAddressCounter, ph => ph.configured
  | .init, _ => true
  | .updatePlane, ph => ph.configured
  | .refresh, ph => ph == .PLANES_STAGED

/-- The phase table's third column (R25): `PHASE` after `OK`. -/
def Operation.phaseAfter : Operation → Phase → Phase
  | .sendCommand, ph => ph
  | .sendData, ph => ph
  | .sendCommandData, ph => ph
  | .reset, _ => .RESETTING
  | .busyWait, ph => if ph = .RESETTING then .READY_TO_INIT else ph
  | .setAddressCounter, ph => ph
  | .init, _ => .INITIALIZED
  | .updatePlane, _ => .PLANES_STAGED
  | .refresh, _ => .REFRESHED

namespace State

/-- `PHASE <- ph`. -/
def setPhase (ph : Phase) (s : State) : State := { s with phase := ph }

/-- The phase check at acceptance (R26): sets `VIOL` if the operation is not valid in `PHASE`. -/
def checkPhase (op : Operation) (s : State) : State := { s with viol := s.viol || !op.validIn s.phase }

/-- `REFD <- 1` (R27). -/
def setRefd (s : State) : State := { s with refd := true }

end State

end Sys2Proof.Machine
end

