-- ==== Sys2Proof/Decode.lean ====
section
/-! DEFINITION. Decoding of a request (R63–R68), total and rejecting by name; the wire command decoder
(R69, R76); the encoder, from the same field table; the host's table-word entry point. -/

namespace Sys2Proof

/-! ### The fields of the request word (R64) -/

/-- `OP` = `RQ[31:28]`. -/
def opField (rq : Word) : BitVec 4 := rq.extractLsb' 28 4

/-- `PRES` = `RQ[27]`. -/
def presField (rq : Word) : Bool := rq.getLsbD 27

/-- `PSEL` = `RQ[26]`. -/
def pselField (rq : Word) : Bool := rq.getLsbD 26

/-- `Y` = `RQ[23:8]`. -/
def yField (rq : Word) : Half := rq.extractLsb' 8 16

/-- `B` = `RQ[7:0]`. -/
def bField (rq : Word) : Byte := rq.extractLsb' 0 8

/-- `OP` is `0x0` or `0xA`–`0xF` (R66). -/
def opReserved (rq : Word) : Bool :=
  opField rq == 0#4 || decide (10#4 ≤ opField rq)

/-- The bits R64 says must be 0, by `OP`. -/
def mustBeZero (op : BitVec 4) : Word :=
  match op.toNat with
  | 1 => 0x0FFFFF00#32
  | 3 => 0x07FFFF00#32
  | 6 => 0x0F000000#32
  | 8 => 0x0BFFFFFF#32
  | _ => 0x0FFFFFFF#32

/-! ### Decode (R67, checks 1 to 3) -/

/-- Why a request whose `OP` is not reserved fails decode: R67, checks 2 and 3. -/
inductive DecodeError
  /-- a nonzero bit that R64 says must be 0 for this `OP` -/
  | nonzeroBits
  /-- a payload where R65 allows none -/
  | payloadNotAllowed
  deriving DecidableEq, Repr, Inhabited

/-- The decoder's answer. -/
inductive Decoded
  | instr (i : Instr)
  | rejected (why : DecodeError)
  deriving DecidableEq, Repr, Inhabited

/-- Checks 2 and 3 of R67, in that order, around the instruction the `OP` selects. -/
def checked (rq : Word) (payloadAllowed : Bool) (i : Instr) : Decoded :=
  if rq &&& mustBeZero (opField rq) ≠ 0#32 then .rejected .nonzeroBits
  else if payloadAllowed then .instr i
  else .rejected .payloadNotAllowed

/-- R71: `PSEL` = 0 is the black/white plane, 1 the red plane. -/
def planeOf (psel : Bool) : Plane := if psel then .red else .bw

/-- R72: `PRES` = 1 means `some P`, 0 means `none`. -/
def payloadOf (pres : Bool) (P : List Byte) : Option (List Byte) := if pres then some P else none

/-- Decode (R67): checks 1 to 3. A reserved `OP` selects the reserved row, whose meaning is the refusal
(R84). Check 4, the command set, needs the configuration and is made by the two instructions it
concerns, before anything else they do (log 11). -/
def decode (r : Request) : Decoded :=
  match (opField r.word).toNat with
  | 1 => checked r.word r.payload.isEmpty (.sendCommand (bField r.word))
  | 2 => checked r.word true (.sendData r.payload)
  | 3 => checked r.word (presField r.word || r.payload.isEmpty)
      (.sendCommandData (bField r.word) (payloadOf (presField r.word) r.payload))
  | 4 => checked r.word r.payload.isEmpty .reset
  | 5 => checked r.word r.payload.isEmpty .busyWait
  | 6 => checked r.word r.payload.isEmpty (.setAddressCounter (bField r.word) (yField r.word))
  | 7 => checked r.word r.payload.isEmpty .init
  | 8 => checked r.word true (.updatePlane (planeOf (pselField r.word)) r.payload)
  | 9 => checked r.word r.payload.isEmpty .refresh
  | _ => .instr (.reservedOp r.word r.payload)

/-! ### The wire command bytes (R69, R76) -/

/-- The command a byte stands for under the configured values, if any (R69). -/
def decodeWire (t : Opcodes) (b : Byte) : Option Command :=
  Command.all.find? fun c => t.byte c == b

/-- The instruction that sends a command raw, with its optional payload (R77). -/
def Instr.ofCommand : Command → Option (List Byte) → Instr
  | .swReset, opt => .opcSwReset opt
  | .driverOutputControl, opt => .opcDriverOutputControl opt
  | .dataEntryMode, opt => .opcDataEntryMode opt
  | .ramXWindow, opt => .opcRamXWindow opt
  | .ramYWindow, opt => .opcRamYWindow opt
  | .ramXCounter, opt => .opcRamXCounter opt
  | .ramYCounter, opt => .opcRamYCounter opt
  | .borderWaveform, opt => .opcBorderWaveform opt
  | .duc1, opt => .opcDuc1 opt
  | .duc2, opt => .opcDuc2 opt
  | .writeRamBw, opt => .opcWriteRamBw opt
  | .writeRamRed, opt => .opcWriteRamRed opt
  | .masterActivation, opt => .opcMasterActivation opt

/-! ### The encoder (R64, R86, R87) -/

/-- A request word from its fields, most significant field first, `RQ[25:24]` = 0 (R64). -/
def requestWord (op : BitVec 4) (pres psel : Bool) (y : Half) (b : Byte) : Word :=
  op ++ BitVec.ofBool pres ++ BitVec.ofBool psel ++ 0#2 ++ y ++ b

/-- A raw send (R86): `send_command c`, or `send_command_data c, P` where a payload is given. -/
def rawSend (c : Byte) : Option (List Byte) → Instr
  | none => .sendCommand c
  | some P => .sendCommandData c (some P)

/-- A row that is another name of a core operation, as that operation (R87 for the pseudo-instructions,
R77 for the wire commands); a core operation, as itself. -/
def Instr.expand (t : Opcodes) : Instr → Instr
  | .sendCommand c => .sendCommand c
  | .sendData P => .sendData P
  | .sendCommandData c opt => .sendCommandData c opt
  | .reset => .reset
  | .busyWait => .busyWait
  | .setAddressCounter x y => .setAddressCounter x y
  | .init => .init
  | .updatePlane sel buf => .updatePlane sel buf
  | .refresh => .refresh
  | .updateBw buf => .updatePlane .bw buf
  | .updateRed buf => .updatePlane .red buf
  | .reservedOp rq P => .reservedOp rq P
  | .opcSwReset opt => rawSend t.swReset opt
  | .opcDriverOutputControl opt => rawSend t.driverOutputControl opt
  | .opcDataEntryMode opt => rawSend t.dataEntryMode opt
  | .opcRamXWindow opt => rawSend t.ramXWindow opt
  | .opcRamYWindow opt => rawSend t.ramYWindow opt
  | .opcRamXCounter opt => rawSend t.ramXCounter opt
  | .opcRamYCounter opt => rawSend t.ramYCounter opt
  | .opcBorderWaveform opt => rawSend t.borderWaveform opt
  | .opcDuc1 opt => rawSend t.duc1 opt
  | .opcDuc2 opt => rawSend t.duc2 opt
  | .opcWriteRamBw opt => rawSend t.writeRamBw opt
  | .opcWriteRamRed opt => rawSend t.writeRamRed opt
  | .opcMasterActivation opt => rawSend t.masterActivation opt

/-- The request of a raw send (R86). -/
def encodeRaw (c : Byte) : Option (List Byte) → Request
  | none => ⟨requestWord 1#4 false false 0#16 c, []⟩
  | some P => ⟨requestWord 3#4 true false 0#16 c, P⟩

/-- The request of an instruction, in the syntax of R86. -/
def encode (t : Opcodes) : Instr → Request
  | .sendCommand c => ⟨requestWord 1#4 false false 0#16 c, []⟩
  | .sendData P => ⟨requestWord 2#4 false false 0#16 0#8, P⟩
  | .sendCommandData c none => ⟨requestWord 3#4 false false 0#16 c, []⟩
  | .sendCommandData c (some P) => ⟨requestWord 3#4 true false 0#16 c, P⟩
  | .reset => ⟨requestWord 4#4 false false 0#16 0#8, []⟩
  | .busyWait => ⟨requestWord 5#4 false false 0#16 0#8, []⟩
  | .setAddressCounter x y => ⟨requestWord 6#4 false false y x, []⟩
  | .init => ⟨requestWord 7#4 false false 0#16 0#8, []⟩
  | .updatePlane sel buf => ⟨requestWord 8#4 false (sel == .red) 0#16 0#8, buf⟩
  | .refresh => ⟨requestWord 9#4 false false 0#16 0#8, []⟩
  | .updateBw buf => ⟨requestWord 8#4 false false 0#16 0#8, buf⟩
  | .updateRed buf => ⟨requestWord 8#4 false true 0#16 0#8, buf⟩
  | .reservedOp rq P => ⟨rq, P⟩
  | .opcSwReset opt => encodeRaw t.swReset opt
  | .opcDriverOutputControl opt => encodeRaw t.driverOutputControl opt
  | .opcDataEntryMode opt => encodeRaw t.dataEntryMode opt
  | .opcRamXWindow opt => encodeRaw t.ramXWindow opt
  | .opcRamYWindow opt => encodeRaw t.ramYWindow opt
  | .opcRamXCounter opt => encodeRaw t.ramXCounter opt
  | .opcRamYCounter opt => encodeRaw t.ramYCounter opt
  | .opcBorderWaveform opt => encodeRaw t.borderWaveform opt
  | .opcDuc1 opt => encodeRaw t.duc1 opt
  | .opcDuc2 opt => encodeRaw t.duc2 opt
  | .opcWriteRamBw opt => encodeRaw t.writeRamBw opt
  | .opcWriteRamRed opt => encodeRaw t.writeRamRed opt
  | .opcMasterActivation opt => encodeRaw t.masterActivation opt

/-! ### Table words -/

/-- The request a table word stands for. A 32-bit row is a request word; its payload, to which the table
gives no bits, is all zeros: the plane buffer's 2756 bytes for UPDATE_PLANE, nothing for the others
(log 15). An 8-bit row is a wire command byte, and stands for `send_command` of it (R77, log 12). -/
def tableRequest (nbits w : Nat) : Request :=
  if nbits = 8 then ⟨requestWord 1#4 false false 0#16 (BitVec.ofNat 8 w), []⟩
  else
    let rq := BitVec.ofNat 32 w
    ⟨rq, if opField rq = 8#4 then List.replicate Config.thisHardware.planeBytes 0#8 else []⟩

/-- The instruction the decoder reads from a table word: a request word for a 32-bit row, a wire command
byte of this hardware for an 8-bit row. -/
def decodeTableWord (nbits w : Nat) : Option Instr :=
  if nbits = 8 then
    (decodeWire Config.thisHardware.opcodes (BitVec.ofNat 8 w)).map fun c => Instr.ofCommand c none
  else
    match decode (tableRequest nbits w) with
    | .instr i => some i
    | .rejected _ => none

end Sys2Proof
end

