-- ==== Sys2Proof/Machine/Operands.lean ====
section
/-! DEFINITION. Operand assembly (R70–R72): what each operation loads into the operand latches, what it
reads back out of them, and the byte order of a 16-bit payload (R48, R83). -/

namespace Sys2Proof.Machine

/-- `lo8(v) = v[7:0]` (R10). -/
def lo8 (v : Half) : Byte := v.extractLsb' 0 8

/-- `hi8(v) = v[15:8]` (R10). -/
def hi8 (v : Half) : Byte := v.extractLsb' 8 8

/-- A 16-bit number as a payload: low byte first (R48, R83). -/
def littleEndian (v : Half) : List Byte := [lo8 v, hi8 v]

/-- Latches of an operation without operands: every field of its request word is 0 (R64, R70). -/
def Latches.none : Latches := ⟨0#8, 0#16, false, false, []⟩

/-- Latches of SEND_COMMAND (R70). -/
def Latches.command (c : Byte) : Latches := ⟨c, 0#16, false, false, []⟩

/-- Latches of SEND_DATA (R70). -/
def Latches.data (P : List Byte) : Latches := ⟨0#8, 0#16, false, false, P⟩

/-- Latches of SEND_COMMAND_DATA (R70, R72). -/
def Latches.commandData (c : Byte) (opt : Option (List Byte)) : Latches :=
  ⟨c, 0#16, opt.isSome, false, opt.getD []⟩

/-- Latches of SET_ADDRESS_COUNTER (R70): `x` in `OPL_B`, `y` in `OPL_Y`. -/
def Latches.counter (x : Byte) (y : Half) : Latches := ⟨x, y, false, false, []⟩

/-- Latches of UPDATE_PLANE (R70, R71). -/
def Latches.plane (sel : Plane) (buf : List Byte) : Latches := ⟨0#8, 0#16, false, sel == .red, buf⟩

/-- `opt` of SEND_COMMAND_DATA: `some OPL_P` if `OPL_PRES` = 1, else `none` (R72, R94). -/
def Latches.payload (l : Latches) : Option (List Byte) := payloadOf l.pres l.p

/-- The RAM-write command byte `OPL_PSEL` selects (R71, R125). -/
def Latches.planeOpcode (l : Latches) (t : Opcodes) : Byte :=
  match planeOf l.psel with
  | .bw => t.writeRamBw
  | .red => t.writeRamRed

/-- Unspecified latch values, the n-th time they are taken (R21, log 7). -/
def Latches.free (n : Nat) : Latches :=
  ⟨Config.freeOplB n, Config.freeOplY n, Config.freeOplPres n, Config.freeOplPsel n, Config.freeOplP n⟩

/-- The k-th upcoming answer, counting from 0: the queued ones first, then the free draws (R15, log 5). -/
def Answers.nth {α : Type} (free : Nat → α) (q : Answers α) (k : Nat) : α :=
  q.queued.getD k (free (q.drawn + (k - q.queued.length)))

/-- The answers left once the next one has been taken. -/
def Answers.rest {α : Type} (q : Answers α) : Answers α :=
  match q.queued with
  | [] => ⟨[], q.drawn + 1⟩
  | _ :: more => ⟨more, q.drawn⟩

end Sys2Proof.Machine
end

