-- ==== Sys2Proof/Machine/Sequences.lean ====
section
/-! DEFINITION. The fixed sequences of the operations, primitive by primitive as the spec's pseudocode gives them
(R88–R94, R100–R103, R110–R113, R125, R128). They are computed from the configuration and the operand
latches alone: no request can change them (R61). -/

namespace Sys2Proof.Machine

/-- One primitive of an operation's sequence (R11); a position of `µPC` (R22). -/
inductive Primitive
  /-- `PinSet(p, lvl)` (R11) -/
  | pinSet (p : OutPin) (lvl : Level)
  /-- the `BusWrite(P)` of `FramedWrite(P)` (R90) -/
  | busWrite (P : List Byte)
  /-- `Sleep(ms)` (R12) -/
  | sleep (ms : Nat)
  /-- the `PinRead(BUSY)` at the head of BusyWait's loop (R102) -/
  | pinRead
  /-- the `Sleep(ms)` at the end of BusyWait's loop, after which the loop is entered again (R102) -/
  | pollSleep (ms : Nat)
  deriving DecidableEq, Repr, Inhabited

/-- `CmdFrame(c)` (R73, R88). -/
def cmdFrame (c : Byte) : List Primitive :=
  [.pinSet .DC .L, .pinSet .CS .L, .busWrite [c], .pinSet .CS .H]

/-- `DataFrame(P)` (R74, R89). -/
def dataFrame (P : List Byte) : List Primitive :=
  [.pinSet .DC .H, .pinSet .CS .L, .busWrite P, .pinSet .CS .H]

/-- `CmdDataFrame(c, opt)` (R91). -/
def cmdDataFrame (c : Byte) (opt : Option (List Byte)) : List Primitive :=
  match opt with
  | none => cmdFrame c
  | some P => cmdFrame c ++ dataFrame P

/-- `ResetPulse()` (R100). -/
def resetPulse (c : Config) : List Primitive :=
  [.pinSet .RST .L, .sleep c.tResetLowMs, .pinSet .RST .H, .sleep c.tResetHighMs]

/-- `BusyWait()` (R102): the two primitives of the loop. `POLLS <- 0` is no primitive: it is done where the
sequencer enters the first of them (`State.enter`). -/
def busyWait (c : Config) : List Primitive := [.pinRead, .pollSleep c.tPollMs]

/-- `SetAddressCounter(x, y)` (R110). -/
def setAddressCounter (t : Opcodes) (x : Byte) (y : Half) : List Primitive :=
  cmdDataFrame t.ramXCounter (some [x]) ++ cmdDataFrame t.ramYCounter (some (littleEndian y))

/-- The driver-output-control payload: three bytes, which R78 does not compute from the geometry (log 4). -/
def driverOutputControlPayload : List Byte := [0xD3#8, 0x00#8, 0x00#8]

/-- The RAM-X-window payload, start then end (R80). -/
def ramXWindowPayload (c : Config) : List Byte := [0x00#8, c.xend]

/-- The RAM-Y-window payload, start then end, each low byte first (R81). -/
def ramYWindowPayload (c : Config) : List Byte := littleEndian 0#16 ++ littleEndian c.yend

/-- The states `S1` to `S11` of the initialization sequencer (R113). -/
inductive InitStep
  | S1
  | S2
  | S3
  | S4
  | S5
  | S6
  | S7
  | S8
  | S9
  | S10
  | S11
  deriving DecidableEq, Repr, Inhabited

/-- The order of the initialization states (R113). -/
def InitStep.all : List InitStep := [.S1, .S2, .S3, .S4, .S5, .S6, .S7, .S8, .S9, .S10, .S11]

/-- The action of each initialization state (R112, R113). -/
def InitStep.primitives (c : Config) : InitStep → List Primitive
  | .S1 => resetPulse c
  | .S2 => busyWait c
  | .S3 => cmdFrame c.opcodes.swReset
  | .S4 => busyWait c
  | .S5 => cmdDataFrame c.opcodes.driverOutputControl (some driverOutputControlPayload)
  | .S6 => cmdDataFrame c.opcodes.dataEntryMode (some c.demPayload)
  | .S7 => cmdDataFrame c.opcodes.ramXWindow (some (ramXWindowPayload c))
  | .S8 => cmdDataFrame c.opcodes.ramYWindow (some (ramYWindowPayload c))
  | .S9 => cmdDataFrame c.opcodes.borderWaveform c.bwfPayload
  | .S10 => cmdDataFrame c.opcodes.duc1 c.duc1Payload
  | .S11 => cmdDataFrame c.opcodes.duc2 c.duc2Payload

/-- The initialization state that holds position `pos` of the sequence that the states `ks` make up. -/
def InitStep.find (c : Config) : List InitStep → Nat → Option InitStep
  | [], _ => none
  | k :: ks, pos =>
    if pos < (InitStep.primitives c k).length then some k else InitStep.find c ks (pos - (InitStep.primitives c k).length)

/-- The name that a position of INIT has in R113's table: the state of the initialization sequencer. -/
def initStepAt (c : Config) (pos : Nat) : Option InitStep := InitStep.find c InitStep.all pos

/-- SEND_COMMAND (R92). -/
def sendCommandPrimitives (l : Latches) : List Primitive := cmdFrame l.b

/-- SEND_DATA (R93). -/
def sendDataPrimitives (l : Latches) : List Primitive := dataFrame l.p

/-- SEND_COMMAND_DATA (R94). -/
def sendCommandDataPrimitives (l : Latches) : List Primitive := cmdDataFrame l.b l.payload

/-- RESET (R101). -/
def resetPrimitives (c : Config) : List Primitive := resetPulse c

/-- BUSY_WAIT (R103). -/
def busyWaitPrimitives (c : Config) : List Primitive := busyWait c

/-- SET_ADDRESS_COUNTER (R111). -/
def setAddressCounterPrimitives (c : Config) (l : Latches) : List Primitive := setAddressCounter c.opcodes l.b l.y

/-- INIT (R112): the steps in their fixed order. -/
def initPrimitives (c : Config) : List Primitive := InitStep.all.flatMap (InitStep.primitives c)

/-- UPDATE_PLANE (R125). -/
def updatePlanePrimitives (c : Config) (l : Latches) : List Primitive :=
  setAddressCounter c.opcodes 0x00#8 0x0000#16 ++ cmdDataFrame (l.planeOpcode c.opcodes) (some l.p)

/-- REFRESH (R128). -/
def refreshPrimitives (c : Config) : List Primitive := cmdFrame c.opcodes.masterActivation ++ busyWait c

/-- The sequence of an operation, from the configuration and the operand latches. -/
def Operation.primitives (c : Config) (l : Latches) : Operation → List Primitive
  | .sendCommand => sendCommandPrimitives l
  | .sendData => sendDataPrimitives l
  | .sendCommandData => sendCommandDataPrimitives l
  | .reset => resetPrimitives c
  | .busyWait => busyWaitPrimitives c
  | .setAddressCounter => setAddressCounterPrimitives c l
  | .init => initPrimitives c
  | .updatePlane => updatePlanePrimitives c l
  | .refresh => refreshPrimitives c

end Sys2Proof.Machine
end

