-- ==== Sys2Proof/Machine/Ops.lean ====
section
/-! DEFINITION. The named operations over the state: draws, primitives (R11), responses, failure entry
(R142), refusal (R140), request acceptance (R37) and the sequencer, which runs one primitive at a time (R22). -/

namespace Sys2Proof.Machine

/-! ### What a response reports of a failure (R135) -/

/-- What a running operation can raise (R14, R142). -/
inductive Failure
  | bus (e : BusFault)
  | pin (e : PinFault)
  | timeout
  deriving DecidableEq, Repr

/-- The result code of a failure (R135–R138). -/
def Failure.code : Failure → RspCode
  | .bus _ => .busError
  | .pin _ => .pinError
  | .timeout => .timeout

/-- The native value of a failure (R135–R138). -/
def Failure.native : Failure → Option Native
  | .bus e => some (.bus e)
  | .pin e => some (.pin e)
  | .timeout => none

/-- The level register's value after a successful drive (R29). -/
def knownLevel : Level → PinLevel
  | .L => .L
  | .H => .H

/-- What a `PinSet(p, lvl)` records: `lvl` on `ok`, `U` on `err` (R11, R29). -/
def recordedLevel (lvl : Level) : PinAnswer → PinLevel
  | .ok => knownLevel lvl
  | .err _ => .U

namespace State

/-! ### Reading and writing the state -/

/-- `PIN[p]` (R29). -/
def pin (s : State) : OutPin → PinLevel
  | .CS => s.pinCS
  | .DC => s.pinDC
  | .RST => s.pinRST

/-- `PIN[p] <- v` (R29). -/
def setPin (p : OutPin) (v : PinLevel) (s : State) : State :=
  match p with
  | .CS => { s with pinCS := v }
  | .DC => { s with pinDC := v }
  | .RST => { s with pinRST := v }

/-- Append one event to the history (R11, R13). -/
def emit (e : Event) (s : State) : State := { s with history := s.history ++ [e] }

/-- The k-th upcoming answer to a `PinSet`, counting from 0 (R15). -/
def pinAnswer (s : State) (k : Nat) : PinAnswer := s.pinIn.nth Config.freePinAnswer k

/-- The k-th upcoming BUSY sample, counting from 0 (R15). -/
def busyAnswer (s : State) (k : Nat) : BusyAnswer := s.busyIn.nth Config.freeBusyAnswer k

/-- The k-th upcoming answer to a `BusWrite`, counting from 0 (R15). -/
def busAnswer (s : State) (k : Nat) : BusAnswer := s.busIn.nth Config.freeBusAnswer k

/-- The next `PinSet` answer has been taken. -/
def takePin (s : State) : State := { s with pinIn := s.pinIn.rest }

/-- The next BUSY sample has been taken. -/
def takeBusy (s : State) : State := { s with busyIn := s.busyIn.rest }

/-- The next `BusWrite` answer has been taken. -/
def takeBus (s : State) : State := { s with busIn := s.busIn.rest }

/-- `POLLS <- n` (R31). -/
def setPolls (n : Nat) (s : State) : State := { s with polls := n }

/-- `SEQ` at a position of an operation (R22). -/
def atPosition (op : Operation) (pos : Nat) (s : State) : State := { s with seq := .run op pos }

/-- `SEQ` at the chip-select release after the failing write at a position (R90). -/
def atRelease (op : Operation) (pos : Nat) (e : BusFault) (s : State) : State := { s with seq := .release op pos e }

/-- The operand latches are loaded (R70). -/
def loadLatches (l : Latches) (s : State) : State := { s with latches := l }

/-- The operand latches take unspecified values: the operation has ended (R21, log 7). -/
def freeLatches (s : State) : State := { s with latches := Latches.free s.freed, freed := s.freed + 1 }

/-- The sequence of an operation under the state's configuration and latches. -/
def sequence (op : Operation) (s : State) : List Primitive := op.primitives s.cfg s.latches

/-- The bound of BusyWait has been reached (R102). -/
def pollBoundReached (s : State) : Bool :=
  match s.cfg.busyMaxSamples with
  | none => false
  | some n => decide (n ≤ s.polls)

/-! ### Responses (R28, R135, R142) -/

/-- `LAST_RSP` from the state after the phase update, the `Rsp` event, `SEQ <- IDLE` (R22, R28, R142). -/
def respond (code : RspCode) (native : Option Native) (s : State) : State :=
  { s with
    lastRsp := some ⟨code, native, s.phase, s.viol, s.refd⟩
    history := s.history ++ [.rsp code native]
    seq := .idle }

/-- An operation ends with a response; its latches are then unspecified (R21). -/
def endOperation (code : RspCode) (native : Option Native) (s : State) : State :=
  (s.freeLatches).respond code native

/-- `return OK` (R14) with the phase table's update (R25). -/
def returnOk (op : Operation) (s : State) : State :=
  (s.setPhase (op.phaseAfter s.phase)).endOperation .ok none

/-- Failure entry (R142): `PHASE <- FAULTED`, the response, `SEQ <- IDLE`. Pins, `VIOL` and `REFD` stay.
Nothing returns from it: INIT recovers (R147). -/
def failureEntry (f : Failure) (s : State) : State :=
  (s.setPhase .FAULTED).endOperation f.code f.native

/-- A refused request (R140): `REFD <- 1` and the response; no latch is loaded. -/
def refuse (s : State) : State := (s.setRefd).respond .refused none

/-- A plane of the wrong length under `FAIL_FAST` (R126, R139): the response only. -/
def rejectLength (s : State) : State := s.endOperation .lengthMismatch none

/-! ### Primitives (R11) -/

/-- A pin set with its event and its register update; whether it raises is the caller's matter. -/
def driveLine (p : OutPin) (lvl : Level) (s : State) : State :=
  ((s.takePin).emit (.set p lvl (s.pinAnswer 0))).setPin p (recordedLevel lvl (s.pinAnswer 0))

/-- A bus write with its event. -/
def writeBus (P : List Byte) (s : State) : State := (s.takeBus).emit (.write P (s.busAnswer 0))

/-- A BUSY sample with its event (R11); the sample itself is kept nowhere (R30). -/
def sampleBusy (s : State) : State := (s.takeBusy).emit (.sample (s.busyAnswer 0))

/-- A successful sample is counted (R31). -/
def countPoll (s : State) : State := s.setPolls (s.polls + 1)

/-- The sample of BusyWait with its count: a failing one raises before it is counted (R31, R102). -/
def readBusy (s : State) : State :=
  match s.busyAnswer 0 with
  | .ok _ => s.sampleBusy.countPoll
  | .err _ => s.sampleBusy

end State

/-- The event of a primitive, with the answer it is about to get (R11, R13). -/
def Primitive.event (s : State) : Primitive → Event
  | .pinSet p lvl => .set p lvl (s.pinAnswer 0)
  | .busWrite P => .write P (s.busAnswer 0)
  | .sleep ms => .sleep ms
  | .pinRead => .sample (s.busyAnswer 0)
  | .pollSleep ms => .sleep ms

/-- What a primitive does to the state: its answer is taken, its event appended, its register written (R11). -/
def Primitive.perform (s : State) : Primitive → State
  | .pinSet p lvl => s.driveLine p lvl
  | .busWrite P => s.writeBus P
  | .sleep ms => s.emit (.sleep ms)
  | .pinRead => s.readBusy
  | .pollSleep ms => s.emit (.sleep ms)

/-! ### The sequencer (R22) -/

/-- Where control goes after a primitive. -/
inductive Flow
  /-- the primitive has completed: to the next one -/
  | advance
  /-- the sample reads `L`: past the loop of BusyWait (R102) -/
  | leaveWait
  /-- the poll sleep is over: the loop of BusyWait again (R102) -/
  | repeatWait
  /-- a failure: failure entry (R14, R142) -/
  | fail (f : Failure)
  /-- a failing write: the chip-select release before its failure entry (R90) -/
  | release (e : BusFault)
  deriving DecidableEq, Repr

/-- Where a primitive sends control, by its answer: R11; R90 for a write; R102 for a sample, whose bound counts
the sample just taken. -/
def Primitive.flow (s : State) : Primitive → Flow
  | .pinSet _ _ =>
    match s.pinAnswer 0 with
    | .ok => .advance
    | .err e => .fail (.pin e)
  | .busWrite _ =>
    match s.busAnswer 0 with
    | .ok => .advance
    | .err e => if s.cfg.csReleaseOnFail then .release e else .fail (.bus e)
  | .sleep _ => .advance
  | .pinRead =>
    match s.busyAnswer 0 with
    | .err e => .fail (.pin e)
    | .ok .L => .leaveWait
    | .ok .H => if s.readBusy.pollBoundReached then .fail .timeout else .advance
  | .pollSleep _ => .repeatWait

/-- Arriving at a primitive: BusyWait is entered at its sample, and every entry clears `POLLS` (R31, R102). The
loop goes back to the sample without arriving anew. -/
def Primitive.arrive (s : State) : Primitive → State
  | .pinSet _ _ => s
  | .busWrite _ => s
  | .sleep _ => s
  | .pinRead => s.setPolls 0
  | .pollSleep _ => s

namespace State

/-- `SEQ` moves on to a position of an operation; past its last primitive is `return OK` (R14, R22). -/
def enter (op : Operation) (pos : Nat) (s : State) : State :=
  match (s.sequence op)[pos]? with
  | none => s.returnOk op
  | some m => (m.arrive s).atPosition op pos

/-- Control goes where the primitive at a position sends it (R22). -/
def follow (op : Operation) (pos : Nat) (f : Flow) (s : State) : State :=
  match f with
  | .advance => s.enter op (pos + 1)
  | .leaveWait => s.enter op (pos + 2)
  | .repeatWait => s.atPosition op (pos - 1)
  | .fail f => s.failureEntry f
  | .release e => s.atRelease op pos e

/-- Run the one primitive at a position of an operation (R22, R57). The position names one in every state that a
run reaches; where it names none, nothing is left to run. -/
def runPrimitive (op : Operation) (pos : Nat) (s : State) : State :=
  match (s.sequence op)[pos]? with
  | none => s.returnOk op
  | some m => (m.perform s).follow op pos (m.flow s)

/-- The chip-select release after a failing write, `PinSetNoRaise(CS, H)`; then that write's failure (R90). -/
def runRelease (e : BusFault) (s : State) : State := (s.driveLine .CS .H).failureEntry (.bus e)

/-- A well-formed request begins (R37): latches loaded (R70), phase checked (R26), `SEQ` at the first primitive
(R22). The steps after it run the primitives. -/
def start (op : Operation) (l : Latches) (s : State) : State := ((s.loadLatches l).checkPhase op).enter op 0

/-- The raw sends' last decode check, the command set (R67.4, R69), then the operation. -/
def startSend (op : Operation) (l : Latches) (s : State) : State :=
  if s.cfg.opcodes.holds l.b then s.start op l else s.refuse

/-- One of the thirteen commands sent raw, with SEND_COMMAND or SEND_COMMAND_DATA (R77). -/
def startRaw (c : Byte) (opt : Option (List Byte)) (s : State) : State :=
  match opt with
  | none => s.startSend .sendCommand (Latches.command c)
  | some P => s.startSend .sendCommandData (Latches.commandData c (some P))

/-- UPDATE_PLANE with its length check (R126), which comes before the phase check. -/
def startPlane (sel : Plane) (buf : List Byte) (s : State) : State :=
  if buf.length = s.cfg.planeBytes then s.start .updatePlane (Latches.plane sel buf)
  else
    match s.cfg.lenPolicy with
    | .failFast => s.rejectLength
    | .refuse => s.refuse

/-- The block accepts a request (R37): it leaves the host's list and the `Req` event is emitted. -/
def accept (r : Request) (more : List Request) (s : State) : State :=
  { s with requests := more, history := s.history ++ [.req r.word r.payload] }

end State

end Sys2Proof.Machine
end

