-- ==== Sys2Proof/Machine/AddressInit.lean ====
section
/-! DEFINITION. The RAM Address Setter and the Initialization Sequencer (R111, R112). A meaning begins the
operation's sequence; the steps after it run the sequence's primitives. -/

namespace Sys2Proof.Machine

/-- SET_ADDRESS_COUNTER (R111): the X counter, then the Y counter; no range check. -/
def execSetAddressCounter (x : Byte) (y : Half) (s : State) : Host.Outcome State Fault Refusal :=
  .next (s.start .setAddressCounter (Latches.counter x y))

/-- INIT (R112): the steps S1 to S11. -/
def execInit (s : State) : Host.Outcome State Fault Refusal :=
  .next (s.start .init Latches.none)

end Sys2Proof.Machine
end

