-- ==== Sys2Proof/Machine/PlaneRefresh.lean ====
section
/-! DEFINITION. The Framebuffer Writer with its pseudo-instructions, and the Refresh Trigger (R87, R125, R128).
A meaning begins the operation's sequence; the steps after it run the sequence's primitives. -/

namespace Sys2Proof.Machine

/-- UPDATE_PLANE (R125): the counter reset to (0, 0), then the whole plane; the length check first (R126). -/
def execUpdatePlane (sel : Plane) (buf : List Byte) (s : State) : Host.Outcome State Fault Refusal :=
  .next (s.startPlane sel buf)

/-- `update_bw` (R87): UPDATE_PLANE of the black/white plane. -/
def execUpdateBw (buf : List Byte) (s : State) : Host.Outcome State Fault Refusal :=
  .next (s.startPlane .bw buf)

/-- `update_red` (R87): UPDATE_PLANE of the red plane. -/
def execUpdateRed (buf : List Byte) (s : State) : Host.Outcome State Fault Refusal :=
  .next (s.startPlane .red buf)

/-- REFRESH (R128): master activation, then the wait. -/
def execRefresh (s : State) : Host.Outcome State Fault Refusal :=
  .next (s.start .refresh Latches.none)

end Sys2Proof.Machine
end

