-- ==== Sys2Proof/Machine/Protocol.lean ====
section
/-! DEFINITION. The Protocol Channel operations (R92–R94). A meaning begins the operation's sequence
(Machine/Sequences.lean); the steps after it run the sequence's primitives. -/

namespace Sys2Proof.Machine

/-- SEND_COMMAND (R92): the command frame of `c`, which must be in the command set (R69). -/
def execSendCommand (c : Byte) (s : State) : Host.Outcome State Fault Refusal :=
  .next (s.startSend .sendCommand (Latches.command c))

/-- SEND_DATA (R93): the data frame of `P`, of any length. -/
def execSendData (P : List Byte) (s : State) : Host.Outcome State Fault Refusal :=
  .next (s.start .sendData (Latches.data P))

/-- SEND_COMMAND_DATA (R94): the command frame of `c`, then the data frame of a present payload. -/
def execSendCommandData (c : Byte) (opt : Option (List Byte)) (s : State) : Host.Outcome State Fault Refusal :=
  .next (s.startSend .sendCommandData (Latches.commandData c opt))

end Sys2Proof.Machine
end

