-- ==== Sys2Proof/Machine/Reserved.lean ====
section
/-! DEFINITION. The reserved `OP` row (R84): the block answers `REFUSED`. -/

namespace Sys2Proof.Machine

/-- A request with a reserved `OP`: no primitive, `REFD <- 1`, `REFUSED` (R84, R140). -/
def execReservedOp (_rq : Word) (_P : List Byte) (s : State) : Host.Outcome State Fault Refusal :=
  .next (s.refuse)

end Sys2Proof.Machine
end

