-- ==== Sys2Proof/Machine/ResetBusy.lean ====
section
/-! DEFINITION. The Reset Sequencer and the Busy Synchronizer (R101, R103). A meaning begins the operation's
sequence; the steps after it run the sequence's primitives. -/

namespace Sys2Proof.Machine

/-- RESET (R101): the reset pulse; it does not wait for BUSY. -/
def execReset (s : State) : Host.Outcome State Fault Refusal :=
  .next (s.start .reset Latches.none)

/-- BUSY_WAIT (R103): sample BUSY until it reads `L`, with a sleep after each sample of `H`. -/
def execBusyWait (s : State) : Host.Outcome State Fault Refusal :=
  .next (s.start .busyWait Latches.none)

end Sys2Proof.Machine
end

