-- ==== Sys2Proof/Machine/Wire.lean ====
section
/-! DEFINITION. The thirteen wire commands (R76), each sent raw: SEND_COMMAND of its configured byte, or
SEND_COMMAND_DATA where a payload is given (R77, log 12). A meaning begins that send. -/

namespace Sys2Proof.Machine

/-- software-reset (R76), sent raw (R77). -/
def execOpcSwReset (opt : Option (List Byte)) (s : State) : Host.Outcome State Fault Refusal :=
  .next (s.startRaw s.cfg.opcodes.swReset opt)

/-- driver-output-control (R76), sent raw (R77). -/
def execOpcDriverOutputControl (opt : Option (List Byte)) (s : State) : Host.Outcome State Fault Refusal :=
  .next (s.startRaw s.cfg.opcodes.driverOutputControl opt)

/-- data-entry-mode-setting (R76), sent raw (R77). -/
def execOpcDataEntryMode (opt : Option (List Byte)) (s : State) : Host.Outcome State Fault Refusal :=
  .next (s.startRaw s.cfg.opcodes.dataEntryMode opt)

/-- RAM-X-window (R76), sent raw (R77). -/
def execOpcRamXWindow (opt : Option (List Byte)) (s : State) : Host.Outcome State Fault Refusal :=
  .next (s.startRaw s.cfg.opcodes.ramXWindow opt)

/-- RAM-Y-window (R76), sent raw (R77). -/
def execOpcRamYWindow (opt : Option (List Byte)) (s : State) : Host.Outcome State Fault Refusal :=
  .next (s.startRaw s.cfg.opcodes.ramYWindow opt)

/-- RAM-X-counter (R76), sent raw (R77). -/
def execOpcRamXCounter (opt : Option (List Byte)) (s : State) : Host.Outcome State Fault Refusal :=
  .next (s.startRaw s.cfg.opcodes.ramXCounter opt)

/-- RAM-Y-counter (R76), sent raw (R77). -/
def execOpcRamYCounter (opt : Option (List Byte)) (s : State) : Host.Outcome State Fault Refusal :=
  .next (s.startRaw s.cfg.opcodes.ramYCounter opt)

/-- border-waveform-control (R76), sent raw (R77). -/
def execOpcBorderWaveform (opt : Option (List Byte)) (s : State) : Host.Outcome State Fault Refusal :=
  .next (s.startRaw s.cfg.opcodes.borderWaveform opt)

/-- display-update-control-1 (R76), sent raw (R77). -/
def execOpcDuc1 (opt : Option (List Byte)) (s : State) : Host.Outcome State Fault Refusal :=
  .next (s.startRaw s.cfg.opcodes.duc1 opt)

/-- display-update-control-2 (R76), sent raw (R77). -/
def execOpcDuc2 (opt : Option (List Byte)) (s : State) : Host.Outcome State Fault Refusal :=
  .next (s.startRaw s.cfg.opcodes.duc2 opt)

/-- write-RAM-black/white (R76), sent raw (R77). -/
def execOpcWriteRamBw (opt : Option (List Byte)) (s : State) : Host.Outcome State Fault Refusal :=
  .next (s.startRaw s.cfg.opcodes.writeRamBw opt)

/-- write-RAM-red (R76), sent raw (R77). -/
def execOpcWriteRamRed (opt : Option (List Byte)) (s : State) : Host.Outcome State Fault Refusal :=
  .next (s.startRaw s.cfg.opcodes.writeRamRed opt)

/-- master-activation (R76), sent raw (R77). -/
def execOpcMasterActivation (opt : Option (List Byte)) (s : State) : Host.Outcome State Fault Refusal :=
  .next (s.startRaw s.cfg.opcodes.masterActivation opt)

end Sys2Proof.Machine
end

