-- ==== Sys2Proof/Machine/Dispatch.lean ====
section
/-! DEFINITION. The one dispatch: an arm per constructor, in the opcode table's order. -/

namespace Sys2Proof.Machine

def exec (i : Instr) (s : State) : Host.Outcome State Fault Refusal :=
  match i with
  | .sendCommand c => Sys2Proof.Machine.execSendCommand c s
  | .sendData P => Sys2Proof.Machine.execSendData P s
  | .sendCommandData c opt => Sys2Proof.Machine.execSendCommandData c opt s
  | .reset => Sys2Proof.Machine.execReset s
  | .busyWait => Sys2Proof.Machine.execBusyWait s
  | .setAddressCounter x y => Sys2Proof.Machine.execSetAddressCounter x y s
  | .init => Sys2Proof.Machine.execInit s
  | .updatePlane sel buf => Sys2Proof.Machine.execUpdatePlane sel buf s
  | .refresh => Sys2Proof.Machine.execRefresh s
  | .updateBw buf => Sys2Proof.Machine.execUpdateBw buf s
  | .updateRed buf => Sys2Proof.Machine.execUpdateRed buf s
  | .reservedOp rq P => Sys2Proof.Machine.execReservedOp rq P s
  | .opcSwReset opt => Sys2Proof.Machine.execOpcSwReset opt s
  | .opcDriverOutputControl opt => Sys2Proof.Machine.execOpcDriverOutputControl opt s
  | .opcDataEntryMode opt => Sys2Proof.Machine.execOpcDataEntryMode opt s
  | .opcRamXWindow opt => Sys2Proof.Machine.execOpcRamXWindow opt s
  | .opcRamYWindow opt => Sys2Proof.Machine.execOpcRamYWindow opt s
  | .opcRamXCounter opt => Sys2Proof.Machine.execOpcRamXCounter opt s
  | .opcRamYCounter opt => Sys2Proof.Machine.execOpcRamYCounter opt s
  | .opcBorderWaveform opt => Sys2Proof.Machine.execOpcBorderWaveform opt s
  | .opcDuc1 opt => Sys2Proof.Machine.execOpcDuc1 opt s
  | .opcDuc2 opt => Sys2Proof.Machine.execOpcDuc2 opt s
  | .opcWriteRamBw opt => Sys2Proof.Machine.execOpcWriteRamBw opt s
  | .opcWriteRamRed opt => Sys2Proof.Machine.execOpcWriteRamRed opt s
  | .opcMasterActivation opt => Sys2Proof.Machine.execOpcMasterActivation opt s

end Sys2Proof.Machine
end

