-- ==== Sys2Proof/Machine/Step.lean ====
section
/-! DEFINITION. One step of the block: the next primitive of the operation it stands in (R22, R57), or the
acceptance of the next request, which it decodes and begins (R37, R67). With no request it waits (R156). -/

namespace Sys2Proof.Machine

/-- One step (log 9): one primitive, with the response where it is the operation's last; or, in `IDLE` only
(R37), the acceptance of a request. Its `Req` event comes before decode (R37); a request that fails decode is
refused (R67, R140). -/
def step (s : State) : Host.Outcome State Fault Refusal :=
  match s.seq with
  | .run op pos => .next (s.runPrimitive op pos)
  | .release _ _ e => .next (s.runRelease e)
  | .idle =>
    match s.requests with
    | [] => .next s
    | r :: more =>
      match decode r with
      | .instr i => exec i (s.accept r more)
      | .rejected _ => .next (s.accept r more).refuse

/-- The request of a table word put first on the REQ port of an idle block, so that the next step accepts
and runs it (log 15). -/
def State.withFetchWord (s : State) (nbits w : Nat) : State :=
  { s with seq := .idle, requests := tableRequest nbits w :: s.requests }

end Sys2Proof.Machine
end

