-- ==== Sys2Proof/Safety.lean ====
section
/-! DEFINITION. What claims say about runs, as functions of the event history and the state: what the lines
carry, the bus transactions with the DC level each is sent under, the bracketing of requests and responses,
the end of a run (R166), and the host's waiting duty (R159). -/

namespace Sys2Proof.Machine

/-- What an event does to the record of one line: only a `Set` on that line changes it (R29). -/
def Event.record (p : OutPin) (v : PinLevel) : Event → PinLevel
  | .set q lvl a => if q = p then recordedLevel lvl a else v
  | .sample _ => v
  | .write _ _ => v
  | .sleep _ => v
  | .req _ _ => v
  | .rsp _ _ => v

/-- The level a history leaves on a line, from a level before it (R29). -/
def lineAfter (p : OutPin) (v : PinLevel) (h : List Event) : PinLevel := h.foldl (Event.record p) v

/-- One bus write with the DC and CS levels it was sent under. -/
structure Transaction where
  dc : PinLevel
  cs : PinLevel
  bytes : List Byte
  deriving DecidableEq, Repr, Inhabited

/-- The bus writes of a history, in order, each under the DC and CS levels in force (R75). -/
def transactions (dc cs : PinLevel) : List Event → List Transaction
  | [] => []
  | .write P _ :: h => ⟨dc, cs, P⟩ :: transactions dc cs h
  | .set q lvl a :: h =>
    transactions (Event.record .DC dc (.set q lvl a)) (Event.record .CS cs (.set q lvl a)) h
  | .sample _ :: h => transactions dc cs h
  | .sleep _ :: h => transactions dc cs h
  | .req _ _ :: h => transactions dc cs h
  | .rsp _ _ :: h => transactions dc cs h

/-- The payloads of the bus writes of a history, in order: "the recorded bus-write trace" (R13). -/
def writes (h : List Event) : List (List Byte) := (transactions .U .U h).map (·.bytes)

/-- Where a history stands between requests and responses. -/
inductive Bracket
  /-- no operation is open -/
  | closed
  /-- a request has been accepted and not yet answered -/
  | opened
  /-- an event outside an operation, a second request, or a second response -/
  | broken
  deriving DecidableEq, Repr, Inhabited

/-- One event of the bracketing: `Req` opens, `Rsp` closes, every other event lies in between (R37, R58). -/
def Bracket.next : Bracket → Event → Bracket
  | .closed, .req _ _ => .opened
  | .opened, .rsp _ _ => .closed
  | .opened, .set _ _ _ => .opened
  | .opened, .sample _ => .opened
  | .opened, .write _ _ => .opened
  | .opened, .sleep _ => .opened
  | _, _ => .broken

/-- The bracketing of a whole history. -/
def bracket (h : List Event) : Bracket := h.foldl Bracket.next .closed

/-- An event is a response other than `OK`. -/
def Event.notOk : Event → Bool
  | .rsp code _ => code != .ok
  | .set _ _ _ => false
  | .sample _ => false
  | .write _ _ => false
  | .sleep _ => false
  | .req _ _ => false

/-- A run has ended (R166): no more requests, and `SEQ` = `IDLE`. -/
def State.ended (s : State) : Bool := s.requests.isEmpty && s.seq == .idle

/-- A run that has ended is clean (R166): every response `OK`, `VIOL` = 0 and `REFD` = 0. -/
def State.clean (s : State) : Bool := s.ended && !s.history.any Event.notOk && !s.viol && !s.refd

/-- The operation the block stands in, if it stands in one (R22). -/
def State.operating (s : State) : Option Operation :=
  match s.seq with
  | .idle => none
  | .run op _ => some op
  | .release op _ _ => some op

/-- `SEQ` holds the position of a primitive (R22): a number of the operation's sequence, or the release that
belongs to one of its writes where a failing write has one (R90). -/
def State.atPrimitive (s : State) : Bool :=
  match s.seq with
  | .idle => true
  | .run op pos => decide (pos < (s.sequence op).length)
  | .release op pos _ =>
    match (s.sequence op)[pos]? with
    | some (.busWrite _) => s.cfg.csReleaseOnFail
    | some (.pinSet _ _) => false
    | some (.sleep _) => false
    | some .pinRead => false
    | some (.pollSleep _) => false
    | none => false

/-- The next primitive is the sample at the head of BusyWait's loop (R102). -/
def State.waiting (s : State) : Bool :=
  match s.seq with
  | .idle => false
  | .run op pos => (s.sequence op)[pos]? == some .pinRead
  | .release _ _ _ => false

/-- What a primitive does to the level last asked for on a line. -/
def Primitive.drives (p : OutPin) (v : Option Level) : Primitive → Option Level
  | .pinSet q lvl => if q = p then some lvl else v
  | .busWrite _ => v
  | .sleep _ => v
  | .pinRead => v
  | .pollSleep _ => v

/-- The level that the first `pos` primitives of a sequence last drive on a line, if they drive it at all. -/
def drivenBefore (p : OutPin) (ms : List Primitive) (pos : Nat) : Option Level :=
  (ms.take pos).foldl (Primitive.drives p) none

/-- From `s`, zero or more steps of an operation that has not answered before the last of them lead to `t`. -/
inductive State.GoesOnTo (s : State) : State → Prop
  | here : GoesOnTo s s
  | step {u t : State} : GoesOnTo s u → u.seq ≠ .idle → step u = .next t → GoesOnTo s t

/-- The next `n` answers to `PinSet` are `ok`. -/
abbrev State.pinsOk (s : State) (n : Nat) : Prop := ∀ k < n, s.pinAnswer k = .ok

/-- The next `n` answers to `BusWrite` are `ok`. -/
abbrev State.busOk (s : State) (n : Nat) : Prop := ∀ k < n, s.busAnswer k = .ok

/-- The events of a command frame whose answers are all `ok` (R88). -/
def cmdFrameOk (c : Byte) : List Event :=
  [.set .DC .L .ok, .set .CS .L .ok, .write [c] .ok, .set .CS .H .ok]

/-- The events of a data frame whose answers are all `ok` (R89). -/
def dataFrameOk (P : List Byte) : List Event :=
  [.set .DC .H .ok, .set .CS .L .ok, .write P .ok, .set .CS .H .ok]

/-- The events of a command with an optional payload whose answers are all `ok` (R91). -/
def cmdDataFrameOk (c : Byte) : Option (List Byte) → List Event
  | none => cmdFrameOk c
  | some P => cmdFrameOk c ++ dataFrameOk P

/-- `k` turns of BusyWait's loop that sample `H` and sleep (R102). -/
def pollTurns (k ms : Nat) : List Event := (List.replicate k [Event.sample (.ok .H), .sleep ms]).flatten

/-- Samples number `i` to `i + k - 1` read `H` and the next one reads `L` (R102). -/
abbrev State.busyThenReady (s : State) (i k : Nat) : Prop :=
  (∀ j < k, s.busyAnswer (i + j) = .ok .H) ∧ s.busyAnswer (i + k) = .ok .L

/-- `k` samples of `H` do not reach the poll bound (R102). -/
abbrev State.withinBound (s : State) (k : Nat) : Prop := ∀ n ∈ s.cfg.busyMaxSamples, k < n

/-- The operation an instruction runs; a reserved `OP` runs none (R66, R77, R87). -/
def operation : Instr → Option Operation
  | .sendCommand _ => some .sendCommand
  | .sendData _ => some .sendData
  | .sendCommandData _ _ => some .sendCommandData
  | .reset => some .reset
  | .busyWait => some .busyWait
  | .setAddressCounter _ _ => some .setAddressCounter
  | .init => some .init
  | .updatePlane _ _ => some .updatePlane
  | .refresh => some .refresh
  | .updateBw _ => some .updatePlane
  | .updateRed _ => some .updatePlane
  | .reservedOp _ _ => none
  | .opcSwReset opt => some (rawOperation opt)
  | .opcDriverOutputControl opt => some (rawOperation opt)
  | .opcDataEntryMode opt => some (rawOperation opt)
  | .opcRamXWindow opt => some (rawOperation opt)
  | .opcRamYWindow opt => some (rawOperation opt)
  | .opcRamXCounter opt => some (rawOperation opt)
  | .opcRamYCounter opt => some (rawOperation opt)
  | .opcBorderWaveform opt => some (rawOperation opt)
  | .opcDuc1 opt => some (rawOperation opt)
  | .opcDuc2 opt => some (rawOperation opt)
  | .opcWriteRamBw opt => some (rawOperation opt)
  | .opcWriteRamRed opt => some (rawOperation opt)
  | .opcMasterActivation opt => some (rawOperation opt)
where
  /-- A raw send is SEND_COMMAND_DATA where a payload is given, else SEND_COMMAND (R77, R86). -/
  rawOperation : Option (List Byte) → Operation
    | none => .sendCommand
    | some _ => .sendCommandData

/-- The responses of a history, in order. -/
def responses : List Event → List (RspCode × Option Native)
  | [] => []
  | .rsp code native :: h => (code, native) :: responses h
  | .set _ _ _ :: h => responses h
  | .sample _ :: h => responses h
  | .write _ _ :: h => responses h
  | .sleep _ :: h => responses h
  | .req _ _ :: h => responses h

/-- An event whose answer is a failure. -/
def Event.failed : Event → Bool
  | .set _ _ (.err _) => true
  | .sample (.err _) => true
  | .write _ (.err _) => true
  | .set _ _ .ok => false
  | .sample (.ok _) => false
  | .write _ .ok => false
  | .sleep _ => false
  | .req _ _ => false
  | .rsp _ _ => false

/-- From `s` to `t` an operation has emitted `events` and ended with a response: the history, the status
registers, `LAST_RSP` and `SEQ` after it; the configuration and the host's requests as they were. -/
structure State.EndsWith (s t : State) (events : List Event) (code : RspCode) (native : Option Native)
    (ph : Phase) (v r : Bool) : Prop where
  history : t.history = s.history ++ events ++ [.rsp code native]
  phase : t.phase = ph
  viol : t.viol = v
  refd : t.refd = r
  lastRsp : t.lastRsp = some ⟨code, native, ph, v, r⟩
  seq : t.seq = .idle
  cfg : t.cfg = s.cfg
  requests : t.requests = s.requests

/-- The waiting duty of R159 along a history: whether a BUSY wait is owed, and whether it has been broken. -/
structure Duty where
  dc : PinLevel
  owed : Bool
  kept : Bool
  deriving DecidableEq, Repr, Inhabited

/-- A command frame's byte starts controller work (R159): software reset or master activation. -/
def startsWork (t : Opcodes) (dc : PinLevel) (P : List Byte) : Bool :=
  dc != .H && (P == [t.swReset] || P == [t.masterActivation])

/-- One event of the duty: work started, or a reset pulse, owes a wait; a sample of `L` pays it; a bus write
while it is owed breaks it. Every bus write counts as dependent: the spec does not say which commands are. -/
def Duty.next (t : Opcodes) (d : Duty) : Event → Duty
  | .set q lvl a =>
    { d with dc := Event.record .DC d.dc (.set q lvl a), owed := d.owed || q == .RST }
  | .write P _ => { d with owed := d.owed || startsWork t d.dc P, kept := d.kept && !d.owed }
  | .sample (.ok .L) => { d with owed := false }
  | .sample (.ok .H) => d
  | .sample (.err _) => d
  | .sleep _ => d
  | .req _ _ => d
  | .rsp _ _ => d

/-- The duty of a whole history (R159). -/
def duty (t : Opcodes) (h : List Event) : Duty := h.foldl (Duty.next t) ⟨.U, false, true⟩

end Sys2Proof.Machine
end

