-- ==== Sys2Proof/WellFormed.lean ====
section
/-! DEFINITION. The checks on an instruction term. The syntax leaves two things open: that a raw command
byte lies in the configured command set (R69, the fourth check of R67), and that a `reservedOp` term
really carries a reserved `OP` (R66). The plane length is no decode check (R67.3, R126). -/

namespace Sys2Proof

/-- An instruction term is well-formed under the configured command set. -/
def Instr.wellFormed (t : Opcodes) : Instr → Bool
  | .sendCommand c => t.holds c
  | .sendData _ => true
  | .sendCommandData c _ => t.holds c
  | .reset => true
  | .busyWait => true
  | .setAddressCounter _ _ => true
  | .init => true
  | .updatePlane _ _ => true
  | .refresh => true
  | .updateBw _ => true
  | .updateRed _ => true
  | .reservedOp rq _ => opReserved rq
  | .opcSwReset _ => true
  | .opcDriverOutputControl _ => true
  | .opcDataEntryMode _ => true
  | .opcRamXWindow _ => true
  | .opcRamYWindow _ => true
  | .opcRamXCounter _ => true
  | .opcRamYCounter _ => true
  | .opcBorderWaveform _ => true
  | .opcDuc1 _ => true
  | .opcDuc2 _ => true
  | .opcWriteRamBw _ => true
  | .opcWriteRamRed _ => true
  | .opcMasterActivation _ => true

end Sys2Proof
end

