-- ==== Sys2Proof/Certificates/Slice0/Obligations.lean ====
section
/-! DEFINITION. The statements for the provers: what the spec's numbered rules say of the block. A run of
several steps goes through the host's `Core.run` of `Sys2Proof.core`. -/

open Sys2Proof Sys2Proof.Machine

/-! ### Reset, constants, encodings of the status registers -/

/-- R155: after block reset every piece of block state holds the value its rule gives (the latches and
`POLLS`, to which the spec gives none, are not spoken of), and R156: the block then waits for a request. -/
def Obligations.ResetHoldsTheSpecsValues : Prop :=
  State.reset.phase = .UNINITIALIZED ∧ State.reset.viol = false ∧ State.reset.refd = false ∧
  State.reset.lastRsp = none ∧ State.reset.pinCS = .U ∧ State.reset.pinDC = .U ∧ State.reset.pinRST = .U ∧
  State.reset.seq = .idle ∧ State.reset.history = [] ∧ step State.reset = .next State.reset

/-- R9's column "value for this hardware", and its side conditions on the open parameters: the thirteen
bytes are pairwise distinct and `DEM_PAYLOAD` is not empty, whatever their values. -/
def Obligations.ResetConfigurationIsThisHardware : Prop :=
  State.reset.cfg.csReleaseOnFail = false ∧ State.reset.cfg.busyMaxSamples = none ∧
  State.reset.cfg.lenPolicy = .failFast ∧ State.reset.cfg.tResetLowMs = 100 ∧
  State.reset.cfg.tResetHighMs = 100 ∧ State.reset.cfg.tPollMs = 10 ∧ State.reset.cfg.rows = 212 ∧
  State.reset.cfg.cols = 104 ∧ State.reset.cfg.planeBytes = 2756 ∧ State.reset.cfg.wellFormed = true

/-- R7 and R8: the geometry of every record of this panel variant, that at reset among them, and the two derived
constants. -/
def Obligations.WindowEndsAreDerivedFromTheGeometry : Prop :=
  State.reset.cfg.panelGeometry = true ∧
  ∀ c : Config, c.panelGeometry = true →
    c.rows = 212 ∧ c.cols = 104 ∧ c.planeBytes = c.rows * c.cols / 8 ∧ c.planeBytes = 2756 ∧
    c.xend.toNat = c.cols / 8 - 1 ∧ c.xend = 0x0C#8 ∧ c.yend.toNat = c.rows - 1 ∧ c.yend = 0xD3#16

/-- R23 and R135: the 3-bit encodings; no phase is coded 7, no result 6 or 7. -/
def Obligations.StatusEncodingsAreTheTables : Prop :=
  ([Phase.UNINITIALIZED, .RESETTING, .READY_TO_INIT, .INITIALIZED, .PLANES_STAGED, .REFRESHED, .FAULTED].map
      Phase.code = [0#3, 1#3, 2#3, 3#3, 4#3, 5#3, 6#3]) ∧
  ([RspCode.ok, .busError, .pinError, .timeout, .lengthMismatch, .refused].map RspCode.code =
      [0#3, 1#3, 2#3, 3#3, 4#3, 5#3]) ∧
  (∀ ph : Phase, ph.code ≠ 7#3) ∧ (∀ c : RspCode, c.code ≠ 6#3 ∧ c.code ≠ 7#3)

/-- The invariants of the statements below hold at reset: the pins' record, the bracketing, the sequencer's
position, `LAST_RSP`, chip-select, and the command set. -/
def Obligations.InvariantsHoldAtReset : Prop :=
  (∀ p, State.reset.pin p = lineAfter p .U State.reset.history) ∧
  bracket State.reset.history = .closed ∧ State.reset.seq = .idle ∧ State.reset.atPrimitive = true ∧
  State.reset.lastRsp.map (fun r => (r.code, r.native)) = (responses State.reset.history).getLast? ∧
  State.reset.phase.configured = false ∧ transactions .U .U State.reset.history = []

/-! ### Decode and encode -/

/-- Words written out from R64 and R86 decode to the operations they stand for (V-DEC vectors of
95_test_vectors.md, which give the decode of R67). -/
def Obligations.SampleWordsDecode : Prop :=
  decode ⟨0x1000003C#32, []⟩ = .instr (.sendCommand 0x3C#8) ∧
  decode ⟨0x20000000#32, [0x00#8, 0x0C#8]⟩ = .instr (.sendData [0x00#8, 0x0C#8]) ∧
  decode ⟨0x38000022#32, []⟩ = .instr (.sendCommandData 0x22#8 (some [])) ∧
  decode ⟨0x30000022#32, []⟩ = .instr (.sendCommandData 0x22#8 none) ∧
  decode ⟨0x40000000#32, []⟩ = .instr .reset ∧
  decode ⟨0x50000000#32, []⟩ = .instr .busyWait ∧
  decode ⟨0x6000D305#32, []⟩ = .instr (.setAddressCounter 0x05#8 0x00D3#16) ∧
  decode ⟨0x70000000#32, []⟩ = .instr .init ∧
  decode ⟨0x84000000#32, [0xAA#8]⟩ = .instr (.updatePlane .red [0xAA#8]) ∧
  decode ⟨0x90000000#32, []⟩ = .instr .refresh ∧
  decode ⟨0xA0000000#32, []⟩ = .instr (.reservedOp 0xA0000000#32 []) ∧
  decode ⟨0x22000000#32, [0x00#8, 0x00#8]⟩ = .rejected .nonzeroBits ∧
  decode ⟨0x3C000022#32, [0x00#8]⟩ = .rejected .nonzeroBits ∧
  decode ⟨0x90000000#32, [0x00#8]⟩ = .rejected .payloadNotAllowed

/-- Every well-formed instruction, with every operand, is decoded back from its own request: a core
operation as itself, a pseudo-instruction or a raw wire command as the operation it is a name of. -/
def Obligations.DecodeOfEncodeIsExpand : Prop :=
  ∀ (t : Opcodes) (i : Instr), i.wellFormed t = true → decode (encode t i) = .instr (i.expand t)

/-- The other direction: a request that decodes is the encoding of what it decodes to, so no two requests
decode to one instruction and no bit of an accepted word is dropped. -/
def Obligations.AcceptedRequestIsItsEncoding : Prop :=
  ∀ (t : Opcodes) (r : Request) (i : Instr), decode r = .instr i → encode t i = r

/-- R68's table: operation, match, mask. -/
def matchMaskRows : List (Operation × Word × Word) :=
  [(.sendCommand, 0x10000000#32, 0xFFFFFF00#32), (.sendData, 0x20000000#32, 0xFFFFFFFF#32),
   (.sendCommandData, 0x30000000#32, 0xF7FFFF00#32), (.reset, 0x40000000#32, 0xFFFFFFFF#32),
   (.busyWait, 0x50000000#32, 0xFFFFFFFF#32), (.setAddressCounter, 0x60000000#32, 0xFF000000#32),
   (.init, 0x70000000#32, 0xFFFFFFFF#32), (.updatePlane, 0x80000000#32, 0xFBFFFFFF#32),
   (.refresh, 0x90000000#32, 0xFFFFFFFF#32)]

/-- R68: a word selects the operation whose row it matches and no other; a word that matches no row is
refused (the decoder rejects it, or selects the reserved row, whose meaning is the refusal). -/
def Obligations.WordSelectsTheRowItMatches : Prop :=
  (∀ (r : Request) (i : Instr) (op : Operation), decode r = .instr i → operation i = some op →
    ∀ row ∈ matchMaskRows, (r.word &&& row.2.2 = row.2.1 ↔ row.1 = op)) ∧
  (∀ r : Request, (∀ row ∈ matchMaskRows, r.word &&& row.2.2 ≠ row.2.1) →
    (∃ why, decode r = .rejected why) ∨ decode r = .instr (.reservedOp r.word r.payload))

/-- R64 and R65: what an accepted request with an unreserved `OP` has in the fields and the payload its
operation does not use. -/
def Obligations.AcceptedRequestLeavesUnusedFieldsZero : Prop :=
  ∀ (r : Request) (i : Instr), decode r = .instr i → opReserved r.word = false →
    r.word.extractLsb' 24 2 = 0#2 ∧
    (opField r.word ≠ 3#4 → presField r.word = false) ∧
    (opField r.word ≠ 8#4 → pselField r.word = false) ∧
    (opField r.word ≠ 6#4 → yField r.word = 0#16) ∧
    (opField r.word ≠ 1#4 → opField r.word ≠ 3#4 → opField r.word ≠ 6#4 → bField r.word = 0#8) ∧
    (r.payload ≠ [] → opField r.word = 2#4 ∨ opField r.word = 8#4 ∨
      (opField r.word = 3#4 ∧ presField r.word = true))

/-- R70, with R22, R26 and R37: a step of an idle block whose first request decodes to an instruction of an
operation, and is not turned away for its byte (R69) or its length (R126), loads the operand latches with the
fields of the request's word and its payload, checks the phase, and stands at the operation's first primitive.
(`POLLS` between waits: log 8.) -/
def Obligations.LatchesAreTheRequestsFields : Prop :=
  ∀ (s : State) (r : Request) (more : List Request) (i : Instr) (op : Operation), s.seq = .idle →
    s.requests = r :: more → decode r = .instr i → operation i = some op →
    (op = .sendCommand ∨ op = .sendCommandData → s.cfg.opcodes.holds (bField r.word) = true) →
    (op = .updatePlane → r.payload.length = s.cfg.planeBytes) →
    step s = .next { s with
      requests := more
      history := s.history ++ [.req r.word r.payload]
      latches := ⟨bField r.word, yField r.word, presField r.word, pselField r.word, r.payload⟩
      viol := s.viol || !op.validIn s.phase
      polls := if op = .busyWait then 0 else s.polls
      seq := .run op 0 }

/-- The wire command bytes: with pairwise distinct values (R76), a command is read back from its own byte,
and a byte reads as a command only if it is that command's. -/
def Obligations.WireDecodeOfEveryCommandByte : Prop :=
  ∀ t : Opcodes, t.distinct = true →
    ∀ (b : Byte) (c : Command), decodeWire t b = some c ↔ t.byte c = b

/-! ### One step -/

/-- A step of an idle block accepts the oldest request, emits `Req`, and runs the instruction the request
decodes to; a request that fails decode is refused, with no pin driven and no operand latch loaded; without a
request nothing changes (R37, R67, R140; the last is log 10, that the latches keep their values log 7). -/
def Obligations.StepRunsTheDecodedRequest : Prop :=
  ∀ s : State, s.seq = .idle →
    (s.requests = [] → step s = .next s) ∧
    (∀ r more, s.requests = r :: more →
      ∃ a : State, a = { s with requests := more, history := s.history ++ [.req r.word r.payload] } ∧
        (∀ i, decode r = .instr i → step s = exec i a) ∧
        (∀ why, decode r = .rejected why → ∃ t, step s = .next t ∧
          a.EndsWith t [] .refused none s.phase s.viol true ∧
          t.pinCS = s.pinCS ∧ t.pinDC = s.pinDC ∧ t.pinRST = s.pinRST ∧ t.latches = s.latches))

/-- R22, R26, R37, R70: every instruction of an operation either begins it, standing at its first primitive with the
latches at the fields and the payload of the instruction's own request, the phase checked and nothing else changed;
or is turned away, with no event but its response. (`POLLS` between waits: log 8. That a wire command's request is
its raw send: log 12.) -/
def Obligations.AnOperationBeginsAtItsFirstPrimitive : Prop :=
  ∀ (i : Instr) (op : Operation) (s t : State), operation i = some op → exec i s = .next t →
    (∃ r : Request, r = encode s.cfg.opcodes i ∧ t = { s with
      latches := ⟨bField r.word, yField r.word, presField r.word, pselField r.word, r.payload⟩
      viol := s.viol || !op.validIn s.phase
      polls := if op = .busyWait then 0 else s.polls
      seq := .run op 0 }) ∨
    s.EndsWith t [] .lengthMismatch none s.phase s.viol s.refd ∨
    s.EndsWith t [] .refused none s.phase s.viol true

/-- R11, R22, R37, R57: a step of a block that stands in an operation accepts no request. It runs the one primitive
at the position `SEQ` holds: it appends that primitive's event, and the response if it was the operation's last,
and each pin register follows the event. While the operation runs its latches stay. -/
def Obligations.StepRunsOnePrimitive : Prop :=
  ∀ (s : State) (op : Operation) (pos : Nat) (m : Primitive), s.seq = .run op pos →
    (op.primitives s.cfg s.latches)[pos]? = some m →
    ∃ t, step s = .next t ∧ t.requests = s.requests ∧ t.cfg = s.cfg ∧ (t.seq ≠ .idle → t.latches = s.latches) ∧
      (∀ p, t.pin p = (m.event s).record p (s.pin p)) ∧
      (t.seq ≠ .idle → t.history = s.history ++ [m.event s]) ∧
      (t.seq = .idle → ∃ r, t.lastRsp = some r ∧ t.history = s.history ++ [m.event s, .rsp r.code r.native])

/-- R22 with R14, R90, R102: where `SEQ` goes. A primitive that completes moves it on by one, past the last one to
`IDLE`; a sample of `L` leaves BusyWait's loop; the poll sleep goes back to the sample; a failure ends the
operation, after the chip-select release where a failing write has one. -/
def Obligations.PositionMovesAsTheRuleSays : Prop :=
  ∀ (s : State) (op : Operation) (pos : Nat) (m : Primitive), s.seq = .run op pos →
    (op.primitives s.cfg s.latches)[pos]? = some m →
    let next : Nat → Seq := fun n => if n < (op.primitives s.cfg s.latches).length then .run op n else .idle
    ∃ t, step s = .next t ∧
      (∀ p lvl, m = .pinSet p lvl → t.seq = if s.pinAnswer 0 = .ok then next (pos + 1) else .idle) ∧
      (∀ P, m = .busWrite P → s.busAnswer 0 = .ok → t.seq = next (pos + 1)) ∧
      (∀ P e, m = .busWrite P → s.busAnswer 0 = .err e →
        t.seq = if s.cfg.csReleaseOnFail then .release op pos e else .idle) ∧
      (∀ ms, m = .sleep ms → t.seq = next (pos + 1)) ∧
      (m = .pinRead → s.busyAnswer 0 = .ok .L → t.seq = next (pos + 2)) ∧
      (m = .pinRead → s.busyAnswer 0 = .ok .H → s.withinBound (s.polls + 1) → t.seq = .run op (pos + 1)) ∧
      (m = .pinRead → s.busyAnswer 0 = .ok .H → ¬ s.withinBound (s.polls + 1) → t.seq = .idle) ∧
      (∀ e, m = .pinRead → s.busyAnswer 0 = .err e → t.seq = .idle) ∧
      (∀ ms, m = .pollSleep ms → t.seq = .run op (pos - 1))

/-- R90: the step of the chip-select release after a failing write makes one attempt to drive CS high. The
attempt's own answer is recorded and not reported; the write's failure is. -/
def Obligations.ChipSelectReleaseReportsTheWrite : Prop :=
  ∀ (s : State) (op : Operation) (pos : Nat) (e : BusFault), s.seq = .release op pos e →
    ∃ t, step s = .next t ∧
      s.EndsWith t [.set .CS .H (s.pinAnswer 0)] .busError (some (.bus e)) .FAULTED s.viol s.refd ∧
      t.pinCS = recordedLevel .H (s.pinAnswer 0) ∧ t.pinDC = s.pinDC ∧ t.pinRST = s.pinRST

/-- R31, R102: a step that moves an operation forward to BusyWait's sample clears `POLLS`; any other step of an
operation that goes on counts one if it took a successful sample, and leaves `POLLS` alone if it did not. -/
def Obligations.PollsCountsTheSamplesOfAWait : Prop :=
  ∀ (s t : State) (op : Operation) (pos pos' : Nat) (m m' : Primitive), s.seq = .run op pos →
    (op.primitives s.cfg s.latches)[pos]? = some m → step s = .next t → t.seq = .run op pos' →
    (op.primitives s.cfg s.latches)[pos']? = some m' →
    t.polls =
      if m' = .pinRead ∧ pos < pos' then 0
      else if m = .pinRead then s.polls + 1
      else s.polls

/-- R73: SEND_COMMAND of a command byte, with every answer `ok`, emits the command frame, one primitive a step, and
ends `OK` with the last. -/
def Obligations.SendCommandCompletes : Prop :=
  ∀ (s : State) (c : Byte), s.cfg.opcodes.holds c = true → s.pinsOk 3 → s.busOk 1 →
    ∃ t0 t : State, exec (.sendCommand c) s = .next t0 ∧ Host.Core.run Sys2Proof.core 4 t0 = .next t ∧
      s.EndsWith t [.set .DC .L .ok, .set .CS .L .ok, .write [c] .ok, .set .CS .H .ok] .ok none s.phase
        (s.viol || !s.phase.configured) s.refd ∧
      t.pinDC = .L ∧ t.pinCS = .H ∧ t.pinRST = s.pinRST

/-- R74: SEND_DATA of any payload, empty or not, with every answer `ok`, emits the data frame and ends
`OK`. -/
def Obligations.SendDataCompletes : Prop :=
  ∀ (s : State) (P : List Byte), s.pinsOk 3 → s.busOk 1 →
    ∃ t0 t : State, exec (.sendData P) s = .next t0 ∧ Host.Core.run Sys2Proof.core 4 t0 = .next t ∧
      s.EndsWith t [.set .DC .H .ok, .set .CS .L .ok, .write P .ok, .set .CS .H .ok] .ok none s.phase
        (s.viol || !s.phase.configured) s.refd ∧
      t.pinDC = .H ∧ t.pinCS = .H ∧ t.pinRST = s.pinRST

/-- R94, R91: SEND_COMMAND_DATA with every answer `ok`: the command frame, then the data frame of a payload
that is present, were it empty. -/
def Obligations.SendCommandDataCompletes : Prop :=
  ∀ (s : State) (c : Byte), s.cfg.opcodes.holds c = true →
    (s.pinsOk 3 → s.busOk 1 → ∃ t0 t : State, exec (.sendCommandData c none) s = .next t0 ∧
      Host.Core.run Sys2Proof.core 4 t0 = .next t ∧
      s.EndsWith t (cmdFrameOk c) .ok none s.phase (s.viol || !s.phase.configured) s.refd ∧
      t.pinDC = .L ∧ t.pinCS = .H ∧ t.pinRST = s.pinRST) ∧
    (∀ P, s.pinsOk 6 → s.busOk 2 → ∃ t0 t : State, exec (.sendCommandData c (some P)) s = .next t0 ∧
      Host.Core.run Sys2Proof.core 8 t0 = .next t ∧
      s.EndsWith t (cmdFrameOk c ++ dataFrameOk P) .ok none s.phase (s.viol || !s.phase.configured) s.refd ∧
      t.pinDC = .H ∧ t.pinCS = .H ∧ t.pinRST = s.pinRST)

/-- R77: each of the thirteen wire commands (`opcSwReset` … `opcMasterActivation`), sent raw with or without
a payload, emits its own byte's frame and the payload's, nothing more, and ends `OK`. -/
def Obligations.RawWireCommandsComplete : Prop :=
  ∀ (s : State) (c : Command) (opt : Option (List Byte)),
    s.pinsOk (if opt.isSome then 6 else 3) → s.busOk (if opt.isSome then 2 else 1) →
    ∃ t0 t : State, exec (Instr.ofCommand c opt) s = .next t0 ∧
      Host.Core.run Sys2Proof.core (if opt.isSome then 8 else 4) t0 = .next t ∧
      s.EndsWith t (cmdDataFrameOk (s.cfg.opcodes.byte c) opt) .ok none s.phase
        (s.viol || !s.phase.configured) s.refd ∧
      t.pinDC = (if opt.isSome then .H else .L) ∧ t.pinCS = .H ∧ t.pinRST = s.pinRST

/-- R69: a byte outside the command set is refused by both raw sends, and not sent: no event but the
response, `REFD` set, nothing else of the block changed. -/
def Obligations.ByteOutsideTheCommandSetIsRefused : Prop :=
  ∀ (s : State) (b : Byte), (∀ c : Command, s.cfg.opcodes.byte c ≠ b) →
    ∀ (opt : Option (List Byte)) (i : Instr), i ∈ [Instr.sendCommand b, .sendCommandData b opt] →
      ∃ t, exec i s = .next t ∧ s.EndsWith t [] .refused none s.phase s.viol true ∧
        t.pinCS = s.pinCS ∧ t.pinDC = s.pinDC ∧ t.pinRST = s.pinRST

/-- R88 with R90: the command frame by its first failing answer. Each clause names the failing primitive; the
operation ends there, in failure entry, with the pins as the rules say. -/
def Obligations.CommandFrameStopsAtItsFirstFailure : Prop :=
  ∀ (s : State) (c : Byte), s.cfg.opcodes.holds c = true →
    ∃ t0, exec (.sendCommand c) s = .next t0 ∧
      let v := s.viol || !s.phase.configured
      let after : Nat → State → Prop := fun n t => Host.Core.run Sys2Proof.core n t0 = .next t
      (∀ e, s.pinAnswer 0 = .err e → ∃ t : State, after 1 t ∧
        s.EndsWith t [.set .DC .L (.err e)] .pinError (some (.pin e)) .FAULTED v s.refd ∧
        t.pinDC = .U ∧ t.pinCS = s.pinCS) ∧
      (∀ e, s.pinsOk 1 → s.pinAnswer 1 = .err e → ∃ t : State, after 2 t ∧
        s.EndsWith t [.set .DC .L .ok, .set .CS .L (.err e)] .pinError (some (.pin e)) .FAULTED v s.refd ∧
        t.pinDC = .L ∧ t.pinCS = .U) ∧
      (∀ e, s.pinsOk 2 → s.busAnswer 0 = .err e → s.cfg.csReleaseOnFail = false → ∃ t : State, after 3 t ∧
        s.EndsWith t [.set .DC .L .ok, .set .CS .L .ok, .write [c] (.err e)] .busError (some (.bus e)) .FAULTED v
          s.refd ∧
        t.pinDC = .L ∧ t.pinCS = .L) ∧
      (∀ e, s.pinsOk 2 → s.busAnswer 0 = .err e → s.cfg.csReleaseOnFail = true → ∃ t : State, after 4 t ∧
        s.EndsWith t [.set .DC .L .ok, .set .CS .L .ok, .write [c] (.err e), .set .CS .H (s.pinAnswer 2)] .busError
          (some (.bus e)) .FAULTED v s.refd ∧
        t.pinDC = .L ∧ t.pinCS = recordedLevel .H (s.pinAnswer 2)) ∧
      (∀ e, s.pinsOk 2 → s.busOk 1 → s.pinAnswer 2 = .err e → ∃ t : State, after 4 t ∧
        s.EndsWith t [.set .DC .L .ok, .set .CS .L .ok, .write [c] .ok, .set .CS .H (.err e)] .pinError
          (some (.pin e)) .FAULTED v s.refd ∧
        t.pinDC = .L ∧ t.pinCS = .U)

/-- R100: the reset pulse on success and at each of its two failures, through RESET. -/
def Obligations.ResetPulseSucceedsOrStops : Prop :=
  ∀ s : State, ∃ t0, exec .reset s = .next t0 ∧
    let after : Nat → State → Prop := fun n t =>
      Host.Core.run Sys2Proof.core n t0 = .next t ∧ t.pinCS = s.pinCS ∧ t.pinDC = s.pinDC
    (s.pinsOk 2 → ∃ t : State, after 4 t ∧
      s.EndsWith t [.set .RST .L .ok, .sleep s.cfg.tResetLowMs, .set .RST .H .ok, .sleep s.cfg.tResetHighMs] .ok none
        .RESETTING s.viol s.refd ∧ t.pinRST = .H) ∧
    (∀ e, s.pinAnswer 0 = .err e → ∃ t : State, after 1 t ∧
      s.EndsWith t [.set .RST .L (.err e)] .pinError (some (.pin e)) .FAULTED s.viol s.refd ∧ t.pinRST = .U) ∧
    (∀ e, s.pinsOk 1 → s.pinAnswer 1 = .err e → ∃ t : State, after 3 t ∧
      s.EndsWith t [.set .RST .L .ok, .sleep s.cfg.tResetLowMs, .set .RST .H (.err e)] .pinError (some (.pin e))
        .FAULTED s.viol s.refd ∧ t.pinRST = .U)

/-- R102, R103: BUSY_WAIT whose samples are `k` times `H`, then `L`: `k + 1` samples with a sleep between each two,
`OK`, `POLLS = k + 1`, and the phase of R25. (That `POLLS` keeps its count after the operation: log 8.) -/
def Obligations.BusyWaitEndsAtTheFirstLow : Prop :=
  ∀ (s : State) (k : Nat), s.busyThenReady 0 k → s.withinBound k →
    ∃ t0 t : State, exec .busyWait s = .next t0 ∧ Host.Core.run Sys2Proof.core (2 * k + 1) t0 = .next t ∧
      s.EndsWith t (pollTurns k s.cfg.tPollMs ++ [.sample (.ok .L)]) .ok none
        (if s.phase = .RESETTING then .READY_TO_INIT else s.phase) s.viol s.refd ∧
      t.polls = k + 1 ∧ t.pinCS = s.pinCS ∧ t.pinDC = s.pinDC ∧ t.pinRST = s.pinRST

/-- R102, R137: a failing sample ends the wait at once; it is not counted and no sleep follows. (`POLLS` after the
operation: log 8.) -/
def Obligations.FailingSampleEndsTheWait : Prop :=
  ∀ (s : State) (k : Nat) (e : PinFault), (∀ j < k, s.busyAnswer j = .ok .H) → s.busyAnswer k = .err e →
    s.withinBound k →
    ∃ t0 t : State, exec .busyWait s = .next t0 ∧ Host.Core.run Sys2Proof.core (2 * k + 1) t0 = .next t ∧
      s.EndsWith t (pollTurns k s.cfg.tPollMs ++ [.sample (.err e)]) .pinError (some (.pin e)) .FAULTED s.viol s.refd ∧
      t.polls = k

/-- R138, R102: with a bound of `n + 1` samples, the `n + 1`-th consecutive `H` raises `TIMEOUT` with no sleep
after it: `n + 1` samples, `n` sleeps. (`POLLS` after the operation: log 8.) -/
def Obligations.BoundedWaitTimesOut : Prop :=
  ∀ (s : State) (n : Nat), s.cfg.busyMaxSamples = some (n + 1) → (∀ j < n + 1, s.busyAnswer j = .ok .H) →
    ∃ t0 t : State, exec .busyWait s = .next t0 ∧ Host.Core.run Sys2Proof.core (2 * n + 1) t0 = .next t ∧
      s.EndsWith t (pollTurns n s.cfg.tPollMs ++ [.sample (.ok .H)]) .timeout none .FAULTED s.viol s.refd ∧
      t.polls = n + 1

/-- R104: without a bound, as long as BUSY reads `H` a wait goes on: after any number of turns the block stands
before the next sample, has emitted only `Sample(H) Sleep` turns, and no response. From the start of BUSY_WAIT,
and from a sample of any operation's wait (BUSY_WAIT, INIT, REFRESH). -/
def Obligations.UnboundedWaitGoesOnWhileBusy : Prop :=
  (∀ (s : State) (n : Nat), s.cfg.busyMaxSamples = none → (∀ j < n, s.busyAnswer j = .ok .H) →
    ∃ t0 t : State, exec .busyWait s = .next t0 ∧ Host.Core.run Sys2Proof.core (2 * n) t0 = .next t ∧
      t.seq ≠ .idle ∧ t.waiting = true ∧ t.lastRsp = s.lastRsp ∧
      t.history = s.history ++ pollTurns n s.cfg.tPollMs) ∧
  (∀ (s : State) (n : Nat), s.waiting = true → s.cfg.busyMaxSamples = none → (∀ j < n, s.busyAnswer j = .ok .H) →
    ∃ t : State, Host.Core.run Sys2Proof.core (2 * n) s = .next t ∧ t.seq = s.seq ∧ t.waiting = true ∧ t.lastRsp = s.lastRsp ∧
      t.history = s.history ++ pollTurns n s.cfg.tPollMs)

/-! ### RAM Address Setter and Initialization Sequencer -/

/-- R83 and R110: the counter payloads, low byte of `y` first, for every `x` and `y` (no range check). -/
def Obligations.SetAddressCounterCompletes : Prop :=
  ∀ (s : State) (x : Byte) (y : Half), s.pinsOk 12 → s.busOk 4 →
    ∃ t0 t : State, exec (.setAddressCounter x y) s = .next t0 ∧ Host.Core.run Sys2Proof.core 16 t0 = .next t ∧
      s.EndsWith t (cmdFrameOk s.cfg.opcodes.ramXCounter ++ dataFrameOk [x] ++ cmdFrameOk s.cfg.opcodes.ramYCounter ++
        dataFrameOk [y.extractLsb' 0 8, y.extractLsb' 8 8]) .ok none s.phase (s.viol || !s.phase.configured) s.refd ∧
      t.pinDC = .H ∧ t.pinCS = .H ∧ t.pinRST = s.pinRST

/-- The RAM-X-window payload of a record: start 0, end `COLS / 8 − 1` (R8, R80; log 4). -/
def xWindow (c : Config) : List Byte := [0x00#8, BitVec.ofNat 8 (c.cols / 8 - 1)]

/-- The RAM-Y-window payload of a record: start 0, end `ROWS − 1`, each low byte first (R8, R81; log 4). -/
def yWindow (c : Config) : List Byte :=
  [0x00#8, 0x00#8, BitVec.ofNat 8 (c.rows - 1), BitVec.ofNat 8 ((c.rows - 1) / 256)]

/-- The events of INIT's steps S5 to S11 with every answer `ok` (R112, R78–R82). -/
def configurationEvents (c : Config) : List Event :=
  cmdDataFrameOk c.opcodes.driverOutputControl (some [0xD3#8, 0x00#8, 0x00#8]) ++
  cmdDataFrameOk c.opcodes.dataEntryMode (some c.demPayload) ++
  cmdDataFrameOk c.opcodes.ramXWindow (some (xWindow c)) ++
  cmdDataFrameOk c.opcodes.ramYWindow (some (yWindow c)) ++
  cmdDataFrameOk c.opcodes.borderWaveform c.bwfPayload ++
  cmdDataFrameOk c.opcodes.duc1 c.duc1Payload ++
  cmdDataFrameOk c.opcodes.duc2 c.duc2Payload

/-- How many pin sets an optional payload adds to a command frame (R91). -/
def extraPinSets (opt : Option (List Byte)) : Nat := if opt.isSome then 3 else 0

/-- How many bus writes an optional payload adds to a command frame (R91). -/
def extraWrites (opt : Option (List Byte)) : Nat := if opt.isSome then 1 else 0

/-- The pin sets of a whole INIT: 2 in S1, 3 in S3, 6 in each of S5 to S8, 3 or 6 in each of S9 to S11. -/
def initPinSets (c : Config) : Nat :=
  38 + extraPinSets c.bwfPayload + extraPinSets c.duc1Payload + extraPinSets c.duc2Payload

/-- The bus writes of a whole INIT: 1 in S3, 2 in each of S5 to S8, 1 or 2 in each of S9 to S11. -/
def initWrites (c : Config) : Nat :=
  12 + extraWrites c.bwfPayload + extraWrites c.duc1Payload + extraWrites c.duc2Payload

/-- The events of an INIT whose two waits sample `H` `k1` and `k2` times before `L`, every other answer `ok`: the
eleven steps of R112 in order. -/
def initEvents (c : Config) (k1 k2 : Nat) : List Event :=
  [.set .RST .L .ok, .sleep c.tResetLowMs, .set .RST .H .ok, .sleep c.tResetHighMs] ++
  pollTurns k1 c.tPollMs ++ [.sample (.ok .L)] ++ cmdFrameOk c.opcodes.swReset ++
  pollTurns k2 c.tPollMs ++ [.sample (.ok .L)] ++ configurationEvents c

/-- R112: INIT from any phase, its two waits sampling `H` `k1` and `k2` times before `L`, every other answer
`ok`: the eleven steps in order, one primitive a step, `OK`, `INITIALIZED`; `VIOL` is never set. (`POLLS` after
the operation: log 8; the window payloads of a geometry other than R7's: log 4.) -/
def Obligations.InitCompletes : Prop :=
  ∀ (s : State) (k1 k2 : Nat), s.busyThenReady 0 k1 → s.busyThenReady (k1 + 1) k2 → s.withinBound k1 →
    s.withinBound k2 → s.pinsOk (initPinSets s.cfg) → s.busOk (initWrites s.cfg) →
    ∃ t0 t : State, exec .init s = .next t0 ∧ Host.Core.run Sys2Proof.core (initEvents s.cfg k1 k2).length t0 = .next t ∧
      s.EndsWith t (initEvents s.cfg k1 k2) .ok none .INITIALIZED s.viol s.refd ∧
      t.pinRST = .H ∧ t.pinCS = .H ∧ t.polls = k2 + 1

/-- R116: when every answer is `ok`, however long the two waits, INIT's sequence of `Write` events, with the
geometry R7 fixes; a payload that is `none` is omitted. (`InitCompletes` has the payloads of every geometry.) -/
def Obligations.InitWritesInTheFixedOrder : Prop :=
  ∀ (s : State) (k1 k2 : Nat), s.cfg.panelGeometry = true → s.busyThenReady 0 k1 → s.busyThenReady (k1 + 1) k2 →
    s.withinBound k1 → s.withinBound k2 → s.pinsOk (initPinSets s.cfg) → s.busOk (initWrites s.cfg) →
    ∃ (n : Nat) (t0 t : State) (evs : List Event), exec .init s = .next t0 ∧ Host.Core.run Sys2Proof.core n t0 = .next t ∧
      t.history = s.history ++ evs ++ [.rsp .ok none] ∧
      writes evs =
        [[s.cfg.opcodes.swReset], [s.cfg.opcodes.driverOutputControl], [0xD3#8, 0x00#8, 0x00#8],
         [s.cfg.opcodes.dataEntryMode], s.cfg.demPayload, [s.cfg.opcodes.ramXWindow], [0x00#8, 0x0C#8],
         [s.cfg.opcodes.ramYWindow], [0x00#8, 0x00#8, 0xD3#8, 0x00#8], [s.cfg.opcodes.borderWaveform]] ++
        s.cfg.bwfPayload.toList ++ [[s.cfg.opcodes.duc1]] ++ s.cfg.duc1Payload.toList ++ [[s.cfg.opcodes.duc2]] ++
        s.cfg.duc2Payload.toList

/-- R113, R114: INIT begins in `S1`. A step of INIT in a state stays in it or goes on to its successor, none
skipped; it ends `OK` in `S11` only, and any other end is failure entry. -/
def Obligations.InitStepsRunInOrder : Prop :=
  (∀ c : Config, initStepAt c 0 = some .S1) ∧
  (∀ (s t : State) (pos : Nat) (k : InitStep), s.seq = .run .init pos → initStepAt s.cfg pos = some k →
    step s = .next t →
    (∃ pos' k', t.seq = .run .init pos' ∧ initStepAt t.cfg pos' = some k' ∧
      (k' = k ∨ (k, k') ∈ [(InitStep.S1, InitStep.S2), (.S2, .S3), (.S3, .S4), (.S4, .S5), (.S5, .S6), (.S6, .S7),
        (.S7, .S8), (.S8, .S9), (.S9, .S10), (.S10, .S11)])) ∨
    (∃ e, t.seq = .release .init pos e) ∨
    (t.seq = .idle ∧ ∃ r, t.lastRsp = some r ∧
      ((k = .S11 ∧ r.code = .ok ∧ t.phase = .INITIALIZED) ∨ (r.code ≠ .ok ∧ t.phase = .FAULTED))))

/-- R159: INIT contains the waits it owes. If the host has kept the waiting duty so far (it may owe a wait), INIT
never breaks the duty as far as it goes, whatever the answers; and an INIT that ends `OK` leaves no wait owed. -/
def Obligations.InitKeepsTheWaitingDuty : Prop :=
  ∀ s t0 t : State, s.cfg.wellFormed = true → (duty s.cfg.opcodes s.history).kept = true →
    exec .init s = .next t0 → t0.GoesOnTo t →
    (duty s.cfg.opcodes t.history).kept = true ∧
    (∀ r, t.seq = .idle → t.lastRsp = some r → r.code = .ok → (duty s.cfg.opcodes t.history).owed = false)

/-! ### Framebuffer Writer and Refresh Trigger -/

/-- R125, R87: UPDATE_PLANE of a buffer of the plane's length, and its two pseudo-instructions, with every
answer `ok`: the counter reset to (0, 0) immediately before the plane's RAM-write command, the whole buffer
as one write, unchanged. -/
def Obligations.UpdatePlaneCompletes : Prop :=
  ∀ (s : State) (buf : List Byte), buf.length = s.cfg.planeBytes → s.pinsOk 18 → s.busOk 6 →
    ∀ p ∈ [(Instr.updatePlane .bw buf, s.cfg.opcodes.writeRamBw), (.updateBw buf, s.cfg.opcodes.writeRamBw),
        (.updatePlane .red buf, s.cfg.opcodes.writeRamRed), (.updateRed buf, s.cfg.opcodes.writeRamRed)],
      ∃ t0 t : State, exec p.1 s = .next t0 ∧ Host.Core.run Sys2Proof.core 24 t0 = .next t ∧
        s.EndsWith t (cmdFrameOk s.cfg.opcodes.ramXCounter ++ dataFrameOk [0x00#8] ++
          cmdFrameOk s.cfg.opcodes.ramYCounter ++ dataFrameOk [0x00#8, 0x00#8] ++ cmdFrameOk p.2 ++ dataFrameOk buf)
          .ok none .PLANES_STAGED (s.viol || !s.phase.configured) s.refd ∧
        t.pinDC = .H ∧ t.pinCS = .H ∧ t.pinRST = s.pinRST

/-- R126: a plane of the wrong length touches nothing. Under `FAIL_FAST` the answer is `LENGTH_MISMATCH`;
under `REFUSE` it is `REFUSED`, with `REFD` set. -/
def Obligations.WrongPlaneLengthTouchesNothing : Prop :=
  ∀ (s : State) (sel : Plane) (buf : List Byte), buf.length ≠ s.cfg.planeBytes →
    ∀ i ∈ [Instr.updatePlane sel buf, .updateBw buf, .updateRed buf],
      ∃ t, exec i s = .next t ∧
        (s.cfg.lenPolicy = .failFast → s.EndsWith t [] .lengthMismatch none s.phase s.viol s.refd) ∧
        (s.cfg.lenPolicy = .refuse → s.EndsWith t [] .refused none s.phase s.viol true) ∧
        t.pinCS = s.pinCS ∧ t.pinDC = s.pinDC ∧ t.pinRST = s.pinRST

/-- R128: REFRESH whose wait samples `k` times `H`, then `L`: the master-activation frame, the wait, `OK`,
`REFRESHED`; `VIOL` unless it began in `PLANES_STAGED`. (`POLLS` after the operation: log 8.) -/
def Obligations.RefreshCompletes : Prop :=
  ∀ (s : State) (k : Nat), s.busyThenReady 0 k → s.withinBound k → s.pinsOk 3 → s.busOk 1 →
    ∃ t0 t : State, exec .refresh s = .next t0 ∧ Host.Core.run Sys2Proof.core (4 + (2 * k + 1)) t0 = .next t ∧
      s.EndsWith t (cmdFrameOk s.cfg.opcodes.masterActivation ++ pollTurns k s.cfg.tPollMs ++ [.sample (.ok .L)]) .ok
        none .REFRESHED (s.viol || !(s.phase == .PLANES_STAGED)) s.refd ∧
      t.pinDC = .L ∧ t.pinCS = .H ∧ t.pinRST = s.pinRST ∧ t.polls = k + 1

/-- R128: a REFRESH whose command frame fails ends in failure entry within that frame and takes no BUSY sample. -/
def Obligations.FailedActivationTakesNoSample : Prop :=
  ∀ s : State, (∃ k < 3, s.pinAnswer k ≠ .ok) ∨ s.busAnswer 0 ≠ .ok →
    ∃ (t0 t : State) (n : Nat), n ≤ 4 ∧ exec .refresh s = .next t0 ∧ Host.Core.run Sys2Proof.core n t0 = .next t ∧
      t.seq = .idle ∧ t.phase = .FAULTED ∧ t.busyIn = s.busyIn ∧ t.requests = s.requests ∧
      ∃ r, t.lastRsp = some r ∧ (r.code = .pinError ∨ r.code = .busError)

/-! ### Refusal, failure, results -/

/-- R84 and R140: a request with a reserved `OP` runs no primitive and is answered `REFUSED`. (That the latches, which
R140 does not load, keep their values between operations is log 7.) -/
def Obligations.ReservedOpIsRefused : Prop :=
  ∀ (s : State) (rq : Word) (P : List Byte),
    ∃ t, exec (.reservedOp rq P) s = .next t ∧ s.EndsWith t [] .refused none s.phase s.viol true ∧
      t.pinCS = s.pinCS ∧ t.pinDC = s.pinDC ∧ t.pinRST = s.pinRST ∧ t.latches = s.latches

/-- The last events of a failed operation before its response: the failing primitive with its `err` answer, or
the last `H` sample of a bounded wait; after a failing write, the release of chip-select where it is
configured (R90, R142). -/
def failingTail (c : Config) (r : Response) (tail : List Event) : Prop :=
  (∃ p lvl e, tail = [.set p lvl (.err e)] ∧ r.code = .pinError ∧ r.native = some (.pin e)) ∨
  (∃ e, tail = [.sample (.err e)] ∧ r.code = .pinError ∧ r.native = some (.pin e)) ∨
  (∃ P e, tail = [.write P (.err e)] ∧ c.csReleaseOnFail = false ∧ r.code = .busError ∧ r.native = some (.bus e)) ∨
  (∃ P e a, tail = [.write P (.err e), .set .CS .H a] ∧ c.csReleaseOnFail = true ∧ r.code = .busError ∧
    r.native = some (.bus e)) ∨
  (tail = [.sample (.ok .H)] ∧ c.busyMaxSamples.isSome = true ∧ r.code = .timeout ∧ r.native = none)

/-- R142, R143: failure entry is precise. An operation that ends in `BUS_ERROR`, `PIN_ERROR` or `TIMEOUT`
leaves `FAULTED`; no event before the failing one failed, no primitive follows it but the release of
chip-select, and the response reports that failure. `VIOL` and `REFD` are as they were when it began. -/
def Obligations.FailureEntryIsPrecise : Prop :=
  ∀ (i : Instr) (s t0 t : State) (r : Response), exec i s = .next t0 → t0.GoesOnTo t →
    t.seq = .idle → t.lastRsp = some r → r.code ∈ [RspCode.busError, .pinError, .timeout] →
    t.phase = .FAULTED ∧ r.phase = .FAULTED ∧ r.viol = t.viol ∧ r.refd = t.refd ∧ t.viol = t0.viol ∧
    t.refd = s.refd ∧ t.requests = s.requests ∧
    ∃ evs tail, t.history = s.history ++ evs ++ tail ++ [.rsp r.code r.native] ∧
      (∀ e ∈ evs, e.failed = false) ∧ failingTail s.cfg r tail

/-- R141's table, by the `OP` field: the codes an operation's request may be answered with. -/
def mayAnswer (c : Config) (op : BitVec 4) : RspCode → Bool
  | .ok => [1#4, 2#4, 3#4, 4#4, 5#4, 6#4, 7#4, 8#4, 9#4].contains op
  | .busError => [1#4, 2#4, 3#4, 6#4, 7#4, 8#4, 9#4].contains op
  | .pinError => [1#4, 2#4, 3#4, 4#4, 5#4, 6#4, 7#4, 8#4, 9#4].contains op
  | .timeout => [5#4, 7#4, 9#4].contains op && c.busyMaxSamples.isSome
  | .lengthMismatch => op == 8#4 && c.lenPolicy == .failFast
  | .refused => true

/-- R141: no request is answered with a code its operation's row denies, be it at once or after any number of the
operation's steps. -/
def Obligations.ResultsAreThoseOfTheTable : Prop :=
  ∀ (s u t : State) (q : Request) (more : List Request) (r : Response), s.seq = .idle → s.requests = q :: more →
    step s = .next u → u.GoesOnTo t → t.seq = .idle → t.lastRsp = some r →
    mayAnswer s.cfg (opField q.word) r.code = true

/-! ### The phase table and the frames -/

/-- R25's table, row by row: where each operation is valid, and `PHASE` after `OK`. -/
def Obligations.PhaseTableIsTheSpecs : Prop :=
  (∀ op ∈ [Operation.sendCommand, .sendData, .sendCommandData, .setAddressCounter, .updatePlane], ∀ ph,
    op.validIn ph = true ↔ ph ∈ [Phase.INITIALIZED, .PLANES_STAGED, .REFRESHED]) ∧
  (∀ op ∈ [Operation.reset, .busyWait, .init], ∀ ph, op.validIn ph = true) ∧
  (∀ ph, Operation.refresh.validIn ph = true ↔ ph = .PLANES_STAGED) ∧
  (∀ op ∈ [Operation.sendCommand, .sendData, .sendCommandData, .setAddressCounter], ∀ ph, op.phaseAfter ph = ph) ∧
  (∀ ph, Operation.reset.phaseAfter ph = .RESETTING) ∧
  (∀ ph, Operation.busyWait.phaseAfter ph = if ph = .RESETTING then .READY_TO_INIT else ph) ∧
  (∀ ph, Operation.init.phaseAfter ph = .INITIALIZED) ∧
  (∀ ph, Operation.updatePlane.phaseAfter ph = .PLANES_STAGED) ∧
  (∀ ph, Operation.refresh.phaseAfter ph = .REFRESHED)

/-- `PHASE` after a response, from the phase before it: R25 on `OK`, `FAULTED` on a failure (R142), unchanged on
a rejected length or a refusal (R139, R140). -/
def phaseAfterResponse (op : Operation) (ph : Phase) : RspCode → Phase
  | .ok => op.phaseAfter ph
  | .busError => .FAULTED
  | .pinError => .FAULTED
  | .timeout => .FAULTED
  | .lengthMismatch => ph
  | .refused => ph

/-- R25, R26: what every instruction, and every step of the operation it begins, does to `PHASE` and `VIOL`.
`PHASE` changes only with the response. `VIOL` is set exactly when the operation begins in a phase outside its
valid set, not by a request that is turned away, and by no later step of the operation, however it ends. -/
def Obligations.PhaseAndViolFollowTheTable : Prop :=
  (∀ (i : Instr) (op : Operation) (s t : State), operation i = some op → exec i s = .next t →
    t.phase = s.phase ∧
    (t.seq ≠ .idle → t.viol = (s.viol || !op.validIn s.phase)) ∧ (t.seq = .idle → t.viol = s.viol)) ∧
  (∀ (s t : State) (op : Operation), s.operating = some op → step s = .next t →
    t.viol = s.viol ∧ (t.seq ≠ .idle → t.phase = s.phase) ∧
    (∀ r, t.seq = .idle → t.lastRsp = some r → t.phase = phaseAfterResponse op s.phase r.code))

/-- R26, R147: from `FAULTED`, an operation other than RESET, BUSY_WAIT and INIT that is not turned away runs with
`VIOL` set, to its response. -/
def Obligations.FromFaultedEveryOtherOperationSetsViol : Prop :=
  ∀ (i : Instr) (op : Operation) (s t0 t : State), operation i = some op → s.phase = .FAULTED →
    op ∉ [Operation.reset, .busyWait, .init] → exec i s = .next t0 → t0.seq ≠ .idle → t0.GoesOnTo t → t.viol = true

/-- From `s` to `t` is a step of an operation: an instruction that begins it (or is turned away), or one of its
primitives. -/
def stepOf (op : Operation) (s t : State) : Prop :=
  (∃ i, operation i = some op ∧ exec i s = .next t) ∨ (s.operating = some op ∧ step s = .next t)

/-- The frame of the operations that use the channel only (R92–R95, R111, R125), at each of their steps: they drive
no RST and read no BUSY, and touch no register but DC, CS, `PHASE`, `VIOL`, `REFD` (by a refusal), `LAST_RSP`, `SEQ`
and the latches (`POLLS` between waits: log 8). -/
def Obligations.ChannelOperationsTouchOnlyTheChannel : Prop :=
  ∀ (op : Operation) (s t : State),
    op ∈ [Operation.sendCommand, .sendData, .sendCommandData, .setAddressCounter, .updatePlane] → stepOf op s t →
    t.pinRST = s.pinRST ∧ t.polls = s.polls ∧ t.busyIn = s.busyIn ∧ t.cfg = s.cfg ∧ t.requests = s.requests ∧
    (t.seq ≠ .idle → t.lastRsp = s.lastRsp ∧ t.refd = s.refd) ∧
    (∀ r, t.lastRsp = some r → r.code ≠ .refused → t.seq = .idle → t.refd = s.refd)

/-- The frame of RESET (R101), at each of its steps: only RST, `PHASE`, `LAST_RSP`, `SEQ` and the latches change; it
reads no BUSY and writes nothing (`POLLS` between waits: log 8). -/
def Obligations.ResetTouchesOnlyItsLine : Prop :=
  ∀ s t : State, s.atPrimitive = true → stepOf .reset s t →
    t.pinCS = s.pinCS ∧ t.pinDC = s.pinDC ∧ t.viol = s.viol ∧ t.refd = s.refd ∧ t.polls = s.polls ∧
    t.busyIn = s.busyIn ∧ t.busIn = s.busIn ∧ t.cfg = s.cfg ∧ t.requests = s.requests

/-- The frame of BUSY_WAIT (R103), at each of its steps, however it ends: no output pin changes, nor `VIOL`, nor
`REFD`; nothing is driven or written. -/
def Obligations.BusyWaitTouchesNoPin : Prop :=
  ∀ s t : State, s.atPrimitive = true → stepOf .busyWait s t →
    t.pinCS = s.pinCS ∧ t.pinDC = s.pinDC ∧ t.pinRST = s.pinRST ∧ t.viol = s.viol ∧ t.refd = s.refd ∧
    t.pinIn = s.pinIn ∧ t.busIn = s.busIn ∧ t.cfg = s.cfg ∧ t.requests = s.requests

/-- The frame of INIT and REFRESH (R112, R128), at each of their steps, however they end: neither touches `REFD`, the
configuration or the host's requests; INIT never sets `VIOL`; REFRESH sets it at its start alone, and never
drives RST; a step of REFRESH's wait takes no pin answer, so it drives no line, and writes nothing. -/
def Obligations.InitAndRefreshFrames : Prop :=
  (∀ s t : State, stepOf .init s t →
    t.viol = s.viol ∧ t.refd = s.refd ∧ t.cfg = s.cfg ∧ t.requests = s.requests) ∧
  (∀ s t : State, exec .refresh s = .next t →
    t.pinCS = s.pinCS ∧ t.pinDC = s.pinDC ∧ t.pinRST = s.pinRST ∧ t.viol = (s.viol || !(s.phase == .PLANES_STAGED)) ∧
    t.refd = s.refd ∧ t.cfg = s.cfg ∧ t.requests = s.requests ∧ t.pinIn = s.pinIn ∧ t.busyIn = s.busyIn ∧
    t.busIn = s.busIn) ∧
  (∀ s t : State, s.operating = some .refresh → step s = .next t →
    t.pinRST = s.pinRST ∧ t.viol = s.viol ∧ t.refd = s.refd ∧ t.cfg = s.cfg ∧ t.requests = s.requests ∧
    (∀ pos, s.seq = .run .refresh pos → 4 ≤ pos →
      t.pinCS = s.pinCS ∧ t.pinDC = s.pinDC ∧ t.pinIn = s.pinIn ∧ t.busIn = s.busIn) ∧
    (∀ pos, s.seq = .run .refresh pos → pos < 4 → t.busyIn = s.busyIn))

/-! ### Rules of the whole machine -/

/-- R32, R61: no step changes the configuration record. -/
def Obligations.ConfigurationNeverChanges : Prop :=
  ∀ s t : State, step s = .next t → t.cfg = s.cfg

/-- R57: the history is only appended to; no step reorders, drops or changes an event. -/
def Obligations.HistoryOnlyGrows : Prop :=
  ∀ s t : State, step s = .next t → s.history <+: t.history

/-- R26, R27: no step clears `VIOL` or `REFD`. -/
def Obligations.StickyBitsStaySet : Prop :=
  ∀ s t : State, step s = .next t → (s.viol = true → t.viol = true) ∧ (s.refd = true → t.refd = true)

/-- Two states that differ at most in `VIOL`, the three pin registers, and `LAST_RSP`'s copy of `VIOL`. -/
def sameButViolAndPins (s s' : State) : Prop :=
  s' = { s with viol := s'.viol, pinCS := s'.pinCS, pinDC := s'.pinDC, pinRST := s'.pinRST, lastRsp := s'.lastRsp } ∧
  s'.lastRsp.map (fun r => (r.code, r.native, r.phase, r.refd)) =
    s.lastRsp.map (fun r => (r.code, r.native, r.phase, r.refd))

/-- R26, R29: `VIOL` and the pin registers decide nothing. From two states that differ at most in them and in
`LAST_RSP`'s copy of `VIOL`, a step leads to two such states: the same history, and the same everything else, for
as long as the runs go on. -/
def Obligations.ViolAndPinRegistersDecideNothing : Prop :=
  ∀ s s' t : State, sameButViolAndPins s s' → step s = .next t →
    ∃ t', step s' = .next t' ∧ sameButViolAndPins t t'

/-- 90_conflicts.md C7 and R25: `PHASE` becomes `INITIALIZED` only in a step of INIT. -/
def Obligations.OnlyInitReachesInitialized : Prop :=
  ∀ s t : State, step s = .next t → t.phase = .INITIALIZED → s.phase = .INITIALIZED ∨ s.operating = some .init

/-- R29: every pin register is the level the history leaves on its line, from `U`; every step keeps it so. -/
def Obligations.PinsAreTheHistorysRecord : Prop :=
  ∀ s t : State, (∀ p, s.pin p = lineAfter p .U s.history) → step s = .next t →
    ∀ p, t.pin p = lineAfter p .U t.history

/-- R28: `LAST_RSP` holds the last response of the history, and, between operations, copies of `PHASE`, `VIOL`
and `REFD`; every step keeps it so. -/
def Obligations.LastRspIsTheLastResponse : Prop :=
  let inv : State → Prop := fun s =>
    s.lastRsp.map (fun r => (r.code, r.native)) = (responses s.history).getLast? ∧
    (s.seq = .idle → ∀ r, s.lastRsp = some r → r.phase = s.phase ∧ r.viol = s.viol ∧ r.refd = s.refd)
  ∀ s t : State, inv s → step s = .next t → inv t

/-- R37, R57, R58, R135: the history is a sequence of operations, each one `Req`, its own pin, bus and delay
events, and one `Rsp`; the last may be open, exactly while `SEQ` is not `IDLE`. Every step keeps it so. -/
def Obligations.RequestsAndResponsesBracketEveryEvent : Prop :=
  let inv : State → Prop := fun s => bracket s.history = if s.seq = .idle then .closed else .opened
  ∀ s t : State, inv s → step s = .next t → inv t

/-- R22: `SEQ` is `IDLE`, or holds the position of a primitive of its operation, or of the release that belongs to
one of its writes; it never runs off the end of a sequence. Every step keeps it so. -/
def Obligations.SeqHoldsThePositionOfAPrimitive : Prop :=
  ∀ s t : State, s.atPrimitive = true → step s = .next t → t.atPrimitive = true

/-- In an operation, each line that the primitives before the position have driven is at the level that the last of
them drove. -/
def pinsFollow (s : State) : Prop :=
  ∀ op pos p lvl, s.seq = .run op pos → drivenBefore p (op.primitives s.cfg s.latches) pos = some lvl →
    s.pin p = knownLevel lvl

/-- R11, R14, R29: in an operation that goes on, the pins are at the levels its primitives so far have driven, since
the first failure would have ended it. Every step keeps it so. -/
def Obligations.PinsFollowTheSequence : Prop :=
  ∀ s t : State, s.atPrimitive = true ∧ pinsFollow s → step s = .next t → t.atPrimitive = true ∧ pinsFollow t

/-- R36, R163: between operations, chip-select is left asserted only after a failure. Wherever `PHASE` says the
controller has been initialized, `PIN[CS]` is `H`, but inside the frames of an operation. Every step keeps it so. -/
def Obligations.ConfiguredPhaseHasChipSelectHigh : Prop :=
  let inv : State → Prop := fun s =>
    s.atPrimitive = true ∧ pinsFollow s ∧
    (s.phase.configured = true →
      (s.seq = .idle ∨ ∃ op pos, s.seq = .run op pos ∧ drivenBefore .CS (op.primitives s.cfg s.latches) pos = none) →
      s.pinCS = .H)
  ∀ s t : State, inv s → step s = .next t → inv t

/-- R54, R75, R76: every bus write of the history was sent with CS at `L`, and either with DC at `L`, and then it is
the one byte of one of the thirteen commands, or with DC at `H`. Every step keeps it so. -/
def Obligations.EveryWriteIsFramedAndEveryCommandInTheSet : Prop :=
  let inv : State → Prop := fun s =>
    s.atPrimitive = true ∧ pinsFollow s ∧ (∀ p, s.pin p = lineAfter p .U s.history) ∧
    (s.operating = some .sendCommand ∨ s.operating = some .sendCommandData →
      s.cfg.opcodes.holds s.latches.b = true) ∧
    ∀ w ∈ transactions .U .U s.history, w.cs = .L ∧
      ((w.dc = .L ∧ ∃ c : Command, w.bytes = [s.cfg.opcodes.byte c]) ∨ w.dc = .H)
  ∀ s t : State, inv s → step s = .next t → inv t
end

