-- ==== Sys2Proof/Laws/Encoding.lean ====
section
/-! SUPPORT. The fields of an assembled request word, and what the decoder's checks say of it. -/

namespace Sys2Proof

variable (op : BitVec 4) (pres psel : Bool) (y : Half) (b : Byte)

@[simp] theorem opField_requestWord : opField (requestWord op pres psel y b) = op := by
  apply BitVec.eq_of_getLsbD_eq; intro i hi
  simp only [opField, requestWord, BitVec.getLsbD_extractLsb', BitVec.getLsbD_append]
  have : i = 0 ∨ i = 1 ∨ i = 2 ∨ i = 3 := by omega
  rcases this with rfl | rfl | rfl | rfl <;> simp

@[simp] theorem presField_requestWord : presField (requestWord op pres psel y b) = pres := by
  simp only [presField, requestWord, BitVec.getLsbD_append]; simp

@[simp] theorem pselField_requestWord : pselField (requestWord op pres psel y b) = psel := by
  simp only [pselField, requestWord, BitVec.getLsbD_append]; simp

@[simp] theorem yField_requestWord : yField (requestWord op pres psel y b) = y := by
  apply BitVec.eq_of_getLsbD_eq; intro i hi
  simp only [yField, requestWord, BitVec.getLsbD_extractLsb', BitVec.getLsbD_append]
  simp [hi]

@[simp] theorem bField_requestWord : bField (requestWord op pres psel y b) = b := by
  apply BitVec.eq_of_getLsbD_eq; intro i hi
  simp only [bField, requestWord, BitVec.getLsbD_extractLsb', BitVec.getLsbD_append]
  simp [hi]

/-- A word under the must-be-zero mask of an `OP`, bit by bit. -/
theorem mask_clear_iff (rq m : Word) :
    rq &&& m = 0#32 ↔ ∀ i < 32, m.getLsbD i = true → rq.getLsbD i = false := by
  constructor
  · intro h i _ hm
    have := congrArg (fun v => v.getLsbD i) h
    simpa [hm] using this
  · intro h
    apply BitVec.eq_of_getLsbD_eq; intro i hi
    cases hm : m.getLsbD i with
    | false => simp [hm]
    | true => simp [h i hi hm]

/-- The bits of an assembled request word. -/
theorem getLsbD_requestWord (i : Nat) :
    (requestWord op pres psel y b).getLsbD i =
      if i < 8 then b.getLsbD i
      else if i < 24 then y.getLsbD (i - 8)
      else if i < 26 then false
      else if i < 27 then psel
      else if i < 28 then pres
      else op.getLsbD (i - 28) := by
  simp only [requestWord, BitVec.getLsbD_append]
  by_cases h8 : i < 8
  · simp [h8]
  by_cases h24 : i < 24
  · simp [h8, h24, show i - 8 < 16 by omega]
  by_cases h26 : i < 26
  · simp [h8, h24, h26, show ¬ i - 8 < 16 by omega, show i - 8 - 16 < 2 by omega]
  by_cases h27 : i < 27
  · have h : i = 26 := by omega
    subst h; simp
  by_cases h28 : i < 28
  · have h : i = 27 := by omega
    subst h; simp
  · rw [if_neg h8, if_neg h24, if_neg h26, if_neg h27, if_neg h28, if_neg h8, if_neg (by omega), if_neg (by omega),
      if_neg (by omega), if_neg (by omega)]
    congr 1

/-- A word is assembled from its own fields exactly if `RQ[25:24]` is 0. -/
theorem eq_requestWord_iff (rq : Word) : rq = requestWord (opField rq) (presField rq) (pselField rq) (yField rq) (bField rq) ↔
    rq.extractLsb' 24 2 = 0#2 := by
  constructor
  · intro h; rw [h]
    apply BitVec.eq_of_getLsbD_eq; intro i hi
    rw [BitVec.getLsbD_extractLsb', getLsbD_requestWord]
    have : i = 0 ∨ i = 1 := by omega
    rcases this with rfl | rfl <;> simp
  · intro h
    have h24 : rq.getLsbD 24 = false := by simpa using congrArg (fun v => v.getLsbD 0) h
    have h25 : rq.getLsbD 25 = false := by simpa using congrArg (fun v => v.getLsbD 1) h
    apply BitVec.eq_of_getLsbD_eq; intro i hi
    rw [getLsbD_requestWord]
    simp only [opField, presField, pselField, yField, bField, BitVec.getLsbD_extractLsb']
    interval_cases i <;> simp_all

/-- What it takes to pass the decoder's checks 2 and 3. -/
theorem checked_instr {rq : Word} {b : Bool} {i j : Instr} (h : checked rq b i = .instr j) :
    i = j ∧ b = true ∧ rq &&& mustBeZero (opField rq) = 0#32 := by
  unfold checked at h
  split at h
  · cases h
  · split at h
    · cases h; refine ⟨rfl, by assumption, by simp_all⟩
    · cases h

/-- The fields an accepted word leaves zero (R64). -/
theorem unused_fields_zero (rq : Word) (h : rq &&& mustBeZero (opField rq) = 0#32) :
    rq.extractLsb' 24 2 = 0#2 ∧
    (opField rq ≠ 3#4 → presField rq = false) ∧
    (opField rq ≠ 8#4 → pselField rq = false) ∧
    (opField rq ≠ 6#4 → yField rq = 0#16) ∧
    (opField rq ≠ 1#4 → opField rq ≠ 3#4 → opField rq ≠ 6#4 → bField rq = 0#8) := by
  rw [mask_clear_iff] at h
  generalize hop : opField rq = op at h
  have key : ∀ i < 32, (mustBeZero op).getLsbD i = true → rq.getLsbD i = false := h
  have hm : ∀ op : BitVec 4, ((mustBeZero op).getLsbD 24 = true ∧ (mustBeZero op).getLsbD 25 = true) ∧
     (op ≠ 3#4 → (mustBeZero op).getLsbD 27 = true) ∧ (op ≠ 8#4 → (mustBeZero op).getLsbD 26 = true) ∧
     (op ≠ 6#4 → ∀ i < 24, 8 ≤ i → (mustBeZero op).getLsbD i = true) ∧
     (op ≠ 1#4 → op ≠ 3#4 → op ≠ 6#4 → ∀ i < 8, (mustBeZero op).getLsbD i = true) := by decide
  obtain ⟨⟨m24, m25⟩, m27, m26, my, mb⟩ := hm op
  refine ⟨?_, fun ho => key 27 (by omega) (m27 ho), fun ho => key 26 (by omega) (m26 ho), ?_, ?_⟩
  · apply BitVec.eq_of_getLsbD_eq; intro i hi
    rw [BitVec.getLsbD_extractLsb']
    have : i = 0 ∨ i = 1 := by omega
    rcases this with rfl | rfl
    · simpa using key 24 (by omega) m24
    · simpa using key 25 (by omega) m25
  · intro ho
    apply BitVec.eq_of_getLsbD_eq; intro i hi
    rw [yField, BitVec.getLsbD_extractLsb', key (8+i) (by omega) (my ho _ (by omega) (by omega))]; simp
  · intro h1 h3 h6
    apply BitVec.eq_of_getLsbD_eq; intro i hi
    rw [bField, BitVec.getLsbD_extractLsb', key (0+i) (by omega) (mb h1 h3 h6 _ (by omega))]; simp

/-- Everything the decoder can accept. -/
theorem decode_cases {r : Request} {i : Instr} (h : decode r = .instr i) :
    (opReserved r.word = true ∧ i = .reservedOp r.word r.payload) ∨
    (opReserved r.word = false ∧ r.word &&& mustBeZero (opField r.word) = 0#32 ∧
     ((opField r.word = 1#4 ∧ r.payload = [] ∧ i = .sendCommand (bField r.word)) ∨
      (opField r.word = 2#4 ∧ i = .sendData r.payload) ∨
      (opField r.word = 3#4 ∧ (presField r.word = true ∨ r.payload = []) ∧ i = .sendCommandData (bField r.word) (payloadOf (presField r.word) r.payload)) ∨
      (opField r.word = 4#4 ∧ r.payload = [] ∧ i = .reset) ∨
      (opField r.word = 5#4 ∧ r.payload = [] ∧ i = .busyWait) ∨
      (opField r.word = 6#4 ∧ r.payload = [] ∧ i = .setAddressCounter (bField r.word) (yField r.word)) ∨
      (opField r.word = 7#4 ∧ r.payload = [] ∧ i = .init) ∨
      (opField r.word = 8#4 ∧ i = .updatePlane (planeOf (pselField r.word)) r.payload) ∨
      (opField r.word = 9#4 ∧ r.payload = [] ∧ i = .refresh))) := by
  unfold decode at h
  have hn : ∀ n, (opField r.word).toNat = n → opField r.word = BitVec.ofNat 4 n := by
    intro n hn; rw [← hn]; simp
  split at h
  case h_10 x h1 h2 h3 h4 h5 h6 h7 h8 h9 =>
    left
    refine ⟨?_, by cases h; rfl⟩
    have : (opField r.word).toNat = 0 ∨ 10 ≤ (opField r.word).toNat := by
      have := (opField r.word).isLt
      by_contra hc
      have hh : (opField r.word).toNat ∈ [1,2,3,4,5,6,7,8,9] := by
        have : 1 ≤ (opField r.word).toNat ∧ (opField r.word).toNat ≤ 9 := by omega
        obtain ⟨a, b⟩ := this
        interval_cases (opField r.word).toNat <;> simp
      simp at hh
      rcases hh with hh|hh|hh|hh|hh|hh|hh|hh|hh
      · exact h1 hh
      · exact h2 hh
      · exact h3 hh
      · exact h4 hh
      · exact h5 hh
      · exact h6 hh
      · exact h7 hh
      · exact h8 hh
      · exact h9 hh
    rcases this with h' | h'
    · simp [opReserved, hn 0 h']
    · simp [opReserved, BitVec.le_def, h']
  all_goals
    right
    have ho := hn _ (by assumption)
    obtain ⟨rfl, hb, hz⟩ := checked_instr h
    refine ⟨by simp [opReserved, ho], hz, ?_⟩
    simp_all

end Sys2Proof
end

