-- ==== Sys2Proof/Laws/State.lean ====
section
/-! SUPPORT. One lemma per field per update of the state, for simp. -/

namespace Sys2Proof.Machine.State

variable (s : State)

/-! ### setPhase -/

@[simp] theorem setPhase_cfg (ph : Phase) : (s.setPhase ph).cfg = s.cfg := rfl
@[simp] theorem setPhase_phase (ph : Phase) : (s.setPhase ph).phase = ph := rfl
@[simp] theorem setPhase_viol (ph : Phase) : (s.setPhase ph).viol = s.viol := rfl
@[simp] theorem setPhase_refd (ph : Phase) : (s.setPhase ph).refd = s.refd := rfl
@[simp] theorem setPhase_lastRsp (ph : Phase) : (s.setPhase ph).lastRsp = s.lastRsp := rfl
@[simp] theorem setPhase_pinCS (ph : Phase) : (s.setPhase ph).pinCS = s.pinCS := rfl
@[simp] theorem setPhase_pinDC (ph : Phase) : (s.setPhase ph).pinDC = s.pinDC := rfl
@[simp] theorem setPhase_pinRST (ph : Phase) : (s.setPhase ph).pinRST = s.pinRST := rfl
@[simp] theorem setPhase_seq (ph : Phase) : (s.setPhase ph).seq = s.seq := rfl
@[simp] theorem setPhase_latches (ph : Phase) : (s.setPhase ph).latches = s.latches := rfl
@[simp] theorem setPhase_polls (ph : Phase) : (s.setPhase ph).polls = s.polls := rfl
@[simp] theorem setPhase_requests (ph : Phase) : (s.setPhase ph).requests = s.requests := rfl
@[simp] theorem setPhase_pinIn (ph : Phase) : (s.setPhase ph).pinIn = s.pinIn := rfl
@[simp] theorem setPhase_busyIn (ph : Phase) : (s.setPhase ph).busyIn = s.busyIn := rfl
@[simp] theorem setPhase_busIn (ph : Phase) : (s.setPhase ph).busIn = s.busIn := rfl
@[simp] theorem setPhase_freed (ph : Phase) : (s.setPhase ph).freed = s.freed := rfl
@[simp] theorem setPhase_history (ph : Phase) : (s.setPhase ph).history = s.history := rfl

/-! ### checkPhase -/

@[simp] theorem checkPhase_cfg (op : Operation) : (s.checkPhase op).cfg = s.cfg := rfl
@[simp] theorem checkPhase_phase (op : Operation) : (s.checkPhase op).phase = s.phase := rfl
@[simp] theorem checkPhase_viol (op : Operation) : (s.checkPhase op).viol = (s.viol || !op.validIn s.phase) := rfl
@[simp] theorem checkPhase_refd (op : Operation) : (s.checkPhase op).refd = s.refd := rfl
@[simp] theorem checkPhase_lastRsp (op : Operation) : (s.checkPhase op).lastRsp = s.lastRsp := rfl
@[simp] theorem checkPhase_pinCS (op : Operation) : (s.checkPhase op).pinCS = s.pinCS := rfl
@[simp] theorem checkPhase_pinDC (op : Operation) : (s.checkPhase op).pinDC = s.pinDC := rfl
@[simp] theorem checkPhase_pinRST (op : Operation) : (s.checkPhase op).pinRST = s.pinRST := rfl
@[simp] theorem checkPhase_seq (op : Operation) : (s.checkPhase op).seq = s.seq := rfl
@[simp] theorem checkPhase_latches (op : Operation) : (s.checkPhase op).latches = s.latches := rfl
@[simp] theorem checkPhase_polls (op : Operation) : (s.checkPhase op).polls = s.polls := rfl
@[simp] theorem checkPhase_requests (op : Operation) : (s.checkPhase op).requests = s.requests := rfl
@[simp] theorem checkPhase_pinIn (op : Operation) : (s.checkPhase op).pinIn = s.pinIn := rfl
@[simp] theorem checkPhase_busyIn (op : Operation) : (s.checkPhase op).busyIn = s.busyIn := rfl
@[simp] theorem checkPhase_busIn (op : Operation) : (s.checkPhase op).busIn = s.busIn := rfl
@[simp] theorem checkPhase_freed (op : Operation) : (s.checkPhase op).freed = s.freed := rfl
@[simp] theorem checkPhase_history (op : Operation) : (s.checkPhase op).history = s.history := rfl

/-! ### setRefd -/

@[simp] theorem setRefd_cfg : (s.setRefd).cfg = s.cfg := rfl
@[simp] theorem setRefd_phase : (s.setRefd).phase = s.phase := rfl
@[simp] theorem setRefd_viol : (s.setRefd).viol = s.viol := rfl
@[simp] theorem setRefd_refd : (s.setRefd).refd = true := rfl
@[simp] theorem setRefd_lastRsp : (s.setRefd).lastRsp = s.lastRsp := rfl
@[simp] theorem setRefd_pinCS : (s.setRefd).pinCS = s.pinCS := rfl
@[simp] theorem setRefd_pinDC : (s.setRefd).pinDC = s.pinDC := rfl
@[simp] theorem setRefd_pinRST : (s.setRefd).pinRST = s.pinRST := rfl
@[simp] theorem setRefd_seq : (s.setRefd).seq = s.seq := rfl
@[simp] theorem setRefd_latches : (s.setRefd).latches = s.latches := rfl
@[simp] theorem setRefd_polls : (s.setRefd).polls = s.polls := rfl
@[simp] theorem setRefd_requests : (s.setRefd).requests = s.requests := rfl
@[simp] theorem setRefd_pinIn : (s.setRefd).pinIn = s.pinIn := rfl
@[simp] theorem setRefd_busyIn : (s.setRefd).busyIn = s.busyIn := rfl
@[simp] theorem setRefd_busIn : (s.setRefd).busIn = s.busIn := rfl
@[simp] theorem setRefd_freed : (s.setRefd).freed = s.freed := rfl
@[simp] theorem setRefd_history : (s.setRefd).history = s.history := rfl

/-! ### emit -/

@[simp] theorem emit_cfg (e : Event) : (s.emit e).cfg = s.cfg := rfl
@[simp] theorem emit_phase (e : Event) : (s.emit e).phase = s.phase := rfl
@[simp] theorem emit_viol (e : Event) : (s.emit e).viol = s.viol := rfl
@[simp] theorem emit_refd (e : Event) : (s.emit e).refd = s.refd := rfl
@[simp] theorem emit_lastRsp (e : Event) : (s.emit e).lastRsp = s.lastRsp := rfl
@[simp] theorem emit_pinCS (e : Event) : (s.emit e).pinCS = s.pinCS := rfl
@[simp] theorem emit_pinDC (e : Event) : (s.emit e).pinDC = s.pinDC := rfl
@[simp] theorem emit_pinRST (e : Event) : (s.emit e).pinRST = s.pinRST := rfl
@[simp] theorem emit_seq (e : Event) : (s.emit e).seq = s.seq := rfl
@[simp] theorem emit_latches (e : Event) : (s.emit e).latches = s.latches := rfl
@[simp] theorem emit_polls (e : Event) : (s.emit e).polls = s.polls := rfl
@[simp] theorem emit_requests (e : Event) : (s.emit e).requests = s.requests := rfl
@[simp] theorem emit_pinIn (e : Event) : (s.emit e).pinIn = s.pinIn := rfl
@[simp] theorem emit_busyIn (e : Event) : (s.emit e).busyIn = s.busyIn := rfl
@[simp] theorem emit_busIn (e : Event) : (s.emit e).busIn = s.busIn := rfl
@[simp] theorem emit_freed (e : Event) : (s.emit e).freed = s.freed := rfl
@[simp] theorem emit_history (e : Event) : (s.emit e).history = s.history ++ [e] := rfl

/-! ### takePin -/

@[simp] theorem takePin_cfg : (s.takePin).cfg = s.cfg := rfl
@[simp] theorem takePin_phase : (s.takePin).phase = s.phase := rfl
@[simp] theorem takePin_viol : (s.takePin).viol = s.viol := rfl
@[simp] theorem takePin_refd : (s.takePin).refd = s.refd := rfl
@[simp] theorem takePin_lastRsp : (s.takePin).lastRsp = s.lastRsp := rfl
@[simp] theorem takePin_pinCS : (s.takePin).pinCS = s.pinCS := rfl
@[simp] theorem takePin_pinDC : (s.takePin).pinDC = s.pinDC := rfl
@[simp] theorem takePin_pinRST : (s.takePin).pinRST = s.pinRST := rfl
@[simp] theorem takePin_seq : (s.takePin).seq = s.seq := rfl
@[simp] theorem takePin_latches : (s.takePin).latches = s.latches := rfl
@[simp] theorem takePin_polls : (s.takePin).polls = s.polls := rfl
@[simp] theorem takePin_requests : (s.takePin).requests = s.requests := rfl
@[simp] theorem takePin_pinIn : (s.takePin).pinIn = s.pinIn.rest := rfl
@[simp] theorem takePin_busyIn : (s.takePin).busyIn = s.busyIn := rfl
@[simp] theorem takePin_busIn : (s.takePin).busIn = s.busIn := rfl
@[simp] theorem takePin_freed : (s.takePin).freed = s.freed := rfl
@[simp] theorem takePin_history : (s.takePin).history = s.history := rfl

/-! ### takeBusy -/

@[simp] theorem takeBusy_cfg : (s.takeBusy).cfg = s.cfg := rfl
@[simp] theorem takeBusy_phase : (s.takeBusy).phase = s.phase := rfl
@[simp] theorem takeBusy_viol : (s.takeBusy).viol = s.viol := rfl
@[simp] theorem takeBusy_refd : (s.takeBusy).refd = s.refd := rfl
@[simp] theorem takeBusy_lastRsp : (s.takeBusy).lastRsp = s.lastRsp := rfl
@[simp] theorem takeBusy_pinCS : (s.takeBusy).pinCS = s.pinCS := rfl
@[simp] theorem takeBusy_pinDC : (s.takeBusy).pinDC = s.pinDC := rfl
@[simp] theorem takeBusy_pinRST : (s.takeBusy).pinRST = s.pinRST := rfl
@[simp] theorem takeBusy_seq : (s.takeBusy).seq = s.seq := rfl
@[simp] theorem takeBusy_latches : (s.takeBusy).latches = s.latches := rfl
@[simp] theorem takeBusy_polls : (s.takeBusy).polls = s.polls := rfl
@[simp] theorem takeBusy_requests : (s.takeBusy).requests = s.requests := rfl
@[simp] theorem takeBusy_pinIn : (s.takeBusy).pinIn = s.pinIn := rfl
@[simp] theorem takeBusy_busyIn : (s.takeBusy).busyIn = s.busyIn.rest := rfl
@[simp] theorem takeBusy_busIn : (s.takeBusy).busIn = s.busIn := rfl
@[simp] theorem takeBusy_freed : (s.takeBusy).freed = s.freed := rfl
@[simp] theorem takeBusy_history : (s.takeBusy).history = s.history := rfl

/-! ### takeBus -/

@[simp] theorem takeBus_cfg : (s.takeBus).cfg = s.cfg := rfl
@[simp] theorem takeBus_phase : (s.takeBus).phase = s.phase := rfl
@[simp] theorem takeBus_viol : (s.takeBus).viol = s.viol := rfl
@[simp] theorem takeBus_refd : (s.takeBus).refd = s.refd := rfl
@[simp] theorem takeBus_lastRsp : (s.takeBus).lastRsp = s.lastRsp := rfl
@[simp] theorem takeBus_pinCS : (s.takeBus).pinCS = s.pinCS := rfl
@[simp] theorem takeBus_pinDC : (s.takeBus).pinDC = s.pinDC := rfl
@[simp] theorem takeBus_pinRST : (s.takeBus).pinRST = s.pinRST := rfl
@[simp] theorem takeBus_seq : (s.takeBus).seq = s.seq := rfl
@[simp] theorem takeBus_latches : (s.takeBus).latches = s.latches := rfl
@[simp] theorem takeBus_polls : (s.takeBus).polls = s.polls := rfl
@[simp] theorem takeBus_requests : (s.takeBus).requests = s.requests := rfl
@[simp] theorem takeBus_pinIn : (s.takeBus).pinIn = s.pinIn := rfl
@[simp] theorem takeBus_busyIn : (s.takeBus).busyIn = s.busyIn := rfl
@[simp] theorem takeBus_busIn : (s.takeBus).busIn = s.busIn.rest := rfl
@[simp] theorem takeBus_freed : (s.takeBus).freed = s.freed := rfl
@[simp] theorem takeBus_history : (s.takeBus).history = s.history := rfl

/-! ### setPolls -/

@[simp] theorem setPolls_cfg (n : Nat) : (s.setPolls n).cfg = s.cfg := rfl
@[simp] theorem setPolls_phase (n : Nat) : (s.setPolls n).phase = s.phase := rfl
@[simp] theorem setPolls_viol (n : Nat) : (s.setPolls n).viol = s.viol := rfl
@[simp] theorem setPolls_refd (n : Nat) : (s.setPolls n).refd = s.refd := rfl
@[simp] theorem setPolls_lastRsp (n : Nat) : (s.setPolls n).lastRsp = s.lastRsp := rfl
@[simp] theorem setPolls_pinCS (n : Nat) : (s.setPolls n).pinCS = s.pinCS := rfl
@[simp] theorem setPolls_pinDC (n : Nat) : (s.setPolls n).pinDC = s.pinDC := rfl
@[simp] theorem setPolls_pinRST (n : Nat) : (s.setPolls n).pinRST = s.pinRST := rfl
@[simp] theorem setPolls_seq (n : Nat) : (s.setPolls n).seq = s.seq := rfl
@[simp] theorem setPolls_latches (n : Nat) : (s.setPolls n).latches = s.latches := rfl
@[simp] theorem setPolls_polls (n : Nat) : (s.setPolls n).polls = n := rfl
@[simp] theorem setPolls_requests (n : Nat) : (s.setPolls n).requests = s.requests := rfl
@[simp] theorem setPolls_pinIn (n : Nat) : (s.setPolls n).pinIn = s.pinIn := rfl
@[simp] theorem setPolls_busyIn (n : Nat) : (s.setPolls n).busyIn = s.busyIn := rfl
@[simp] theorem setPolls_busIn (n : Nat) : (s.setPolls n).busIn = s.busIn := rfl
@[simp] theorem setPolls_freed (n : Nat) : (s.setPolls n).freed = s.freed := rfl
@[simp] theorem setPolls_history (n : Nat) : (s.setPolls n).history = s.history := rfl

/-! ### atPosition -/

@[simp] theorem atPosition_cfg (op : Operation) (pos : Nat) : (s.atPosition op pos).cfg = s.cfg := rfl
@[simp] theorem atPosition_phase (op : Operation) (pos : Nat) : (s.atPosition op pos).phase = s.phase := rfl
@[simp] theorem atPosition_viol (op : Operation) (pos : Nat) : (s.atPosition op pos).viol = s.viol := rfl
@[simp] theorem atPosition_refd (op : Operation) (pos : Nat) : (s.atPosition op pos).refd = s.refd := rfl
@[simp] theorem atPosition_lastRsp (op : Operation) (pos : Nat) : (s.atPosition op pos).lastRsp = s.lastRsp := rfl
@[simp] theorem atPosition_pinCS (op : Operation) (pos : Nat) : (s.atPosition op pos).pinCS = s.pinCS := rfl
@[simp] theorem atPosition_pinDC (op : Operation) (pos : Nat) : (s.atPosition op pos).pinDC = s.pinDC := rfl
@[simp] theorem atPosition_pinRST (op : Operation) (pos : Nat) : (s.atPosition op pos).pinRST = s.pinRST := rfl
@[simp] theorem atPosition_seq (op : Operation) (pos : Nat) : (s.atPosition op pos).seq = .run op pos := rfl
@[simp] theorem atPosition_latches (op : Operation) (pos : Nat) : (s.atPosition op pos).latches = s.latches := rfl
@[simp] theorem atPosition_polls (op : Operation) (pos : Nat) : (s.atPosition op pos).polls = s.polls := rfl
@[simp] theorem atPosition_requests (op : Operation) (pos : Nat) : (s.atPosition op pos).requests = s.requests := rfl
@[simp] theorem atPosition_pinIn (op : Operation) (pos : Nat) : (s.atPosition op pos).pinIn = s.pinIn := rfl
@[simp] theorem atPosition_busyIn (op : Operation) (pos : Nat) : (s.atPosition op pos).busyIn = s.busyIn := rfl
@[simp] theorem atPosition_busIn (op : Operation) (pos : Nat) : (s.atPosition op pos).busIn = s.busIn := rfl
@[simp] theorem atPosition_freed (op : Operation) (pos : Nat) : (s.atPosition op pos).freed = s.freed := rfl
@[simp] theorem atPosition_history (op : Operation) (pos : Nat) : (s.atPosition op pos).history = s.history := rfl

/-! ### atRelease -/

@[simp] theorem atRelease_cfg (op : Operation) (pos : Nat) (e : BusFault) :
    (s.atRelease op pos e).cfg = s.cfg := rfl
@[simp] theorem atRelease_phase (op : Operation) (pos : Nat) (e : BusFault) :
    (s.atRelease op pos e).phase = s.phase := rfl
@[simp] theorem atRelease_viol (op : Operation) (pos : Nat) (e : BusFault) :
    (s.atRelease op pos e).viol = s.viol := rfl
@[simp] theorem atRelease_refd (op : Operation) (pos : Nat) (e : BusFault) :
    (s.atRelease op pos e).refd = s.refd := rfl
@[simp] theorem atRelease_lastRsp (op : Operation) (pos : Nat) (e : BusFault) :
    (s.atRelease op pos e).lastRsp = s.lastRsp := rfl
@[simp] theorem atRelease_pinCS (op : Operation) (pos : Nat) (e : BusFault) :
    (s.atRelease op pos e).pinCS = s.pinCS := rfl
@[simp] theorem atRelease_pinDC (op : Operation) (pos : Nat) (e : BusFault) :
    (s.atRelease op pos e).pinDC = s.pinDC := rfl
@[simp] theorem atRelease_pinRST (op : Operation) (pos : Nat) (e : BusFault) :
    (s.atRelease op pos e).pinRST = s.pinRST := rfl
@[simp] theorem atRelease_seq (op : Operation) (pos : Nat) (e : BusFault) :
    (s.atRelease op pos e).seq = .release op pos e := rfl
@[simp] theorem atRelease_latches (op : Operation) (pos : Nat) (e : BusFault) :
    (s.atRelease op pos e).latches = s.latches := rfl
@[simp] theorem atRelease_polls (op : Operation) (pos : Nat) (e : BusFault) :
    (s.atRelease op pos e).polls = s.polls := rfl
@[simp] theorem atRelease_requests (op : Operation) (pos : Nat) (e : BusFault) :
    (s.atRelease op pos e).requests = s.requests := rfl
@[simp] theorem atRelease_pinIn (op : Operation) (pos : Nat) (e : BusFault) :
    (s.atRelease op pos e).pinIn = s.pinIn := rfl
@[simp] theorem atRelease_busyIn (op : Operation) (pos : Nat) (e : BusFault) :
    (s.atRelease op pos e).busyIn = s.busyIn := rfl
@[simp] theorem atRelease_busIn (op : Operation) (pos : Nat) (e : BusFault) :
    (s.atRelease op pos e).busIn = s.busIn := rfl
@[simp] theorem atRelease_freed (op : Operation) (pos : Nat) (e : BusFault) :
    (s.atRelease op pos e).freed = s.freed := rfl
@[simp] theorem atRelease_history (op : Operation) (pos : Nat) (e : BusFault) :
    (s.atRelease op pos e).history = s.history := rfl

/-! ### loadLatches -/

@[simp] theorem loadLatches_cfg (l : Latches) : (s.loadLatches l).cfg = s.cfg := rfl
@[simp] theorem loadLatches_phase (l : Latches) : (s.loadLatches l).phase = s.phase := rfl
@[simp] theorem loadLatches_viol (l : Latches) : (s.loadLatches l).viol = s.viol := rfl
@[simp] theorem loadLatches_refd (l : Latches) : (s.loadLatches l).refd = s.refd := rfl
@[simp] theorem loadLatches_lastRsp (l : Latches) : (s.loadLatches l).lastRsp = s.lastRsp := rfl
@[simp] theorem loadLatches_pinCS (l : Latches) : (s.loadLatches l).pinCS = s.pinCS := rfl
@[simp] theorem loadLatches_pinDC (l : Latches) : (s.loadLatches l).pinDC = s.pinDC := rfl
@[simp] theorem loadLatches_pinRST (l : Latches) : (s.loadLatches l).pinRST = s.pinRST := rfl
@[simp] theorem loadLatches_seq (l : Latches) : (s.loadLatches l).seq = s.seq := rfl
@[simp] theorem loadLatches_latches (l : Latches) : (s.loadLatches l).latches = l := rfl
@[simp] theorem loadLatches_polls (l : Latches) : (s.loadLatches l).polls = s.polls := rfl
@[simp] theorem loadLatches_requests (l : Latches) : (s.loadLatches l).requests = s.requests := rfl
@[simp] theorem loadLatches_pinIn (l : Latches) : (s.loadLatches l).pinIn = s.pinIn := rfl
@[simp] theorem loadLatches_busyIn (l : Latches) : (s.loadLatches l).busyIn = s.busyIn := rfl
@[simp] theorem loadLatches_busIn (l : Latches) : (s.loadLatches l).busIn = s.busIn := rfl
@[simp] theorem loadLatches_freed (l : Latches) : (s.loadLatches l).freed = s.freed := rfl
@[simp] theorem loadLatches_history (l : Latches) : (s.loadLatches l).history = s.history := rfl

/-! ### freeLatches -/

@[simp] theorem freeLatches_cfg : (s.freeLatches).cfg = s.cfg := rfl
@[simp] theorem freeLatches_phase : (s.freeLatches).phase = s.phase := rfl
@[simp] theorem freeLatches_viol : (s.freeLatches).viol = s.viol := rfl
@[simp] theorem freeLatches_refd : (s.freeLatches).refd = s.refd := rfl
@[simp] theorem freeLatches_lastRsp : (s.freeLatches).lastRsp = s.lastRsp := rfl
@[simp] theorem freeLatches_pinCS : (s.freeLatches).pinCS = s.pinCS := rfl
@[simp] theorem freeLatches_pinDC : (s.freeLatches).pinDC = s.pinDC := rfl
@[simp] theorem freeLatches_pinRST : (s.freeLatches).pinRST = s.pinRST := rfl
@[simp] theorem freeLatches_seq : (s.freeLatches).seq = s.seq := rfl
@[simp] theorem freeLatches_latches : (s.freeLatches).latches = Latches.free s.freed := rfl
@[simp] theorem freeLatches_polls : (s.freeLatches).polls = s.polls := rfl
@[simp] theorem freeLatches_requests : (s.freeLatches).requests = s.requests := rfl
@[simp] theorem freeLatches_pinIn : (s.freeLatches).pinIn = s.pinIn := rfl
@[simp] theorem freeLatches_busyIn : (s.freeLatches).busyIn = s.busyIn := rfl
@[simp] theorem freeLatches_busIn : (s.freeLatches).busIn = s.busIn := rfl
@[simp] theorem freeLatches_freed : (s.freeLatches).freed = s.freed + 1 := rfl
@[simp] theorem freeLatches_history : (s.freeLatches).history = s.history := rfl

/-! ### respond -/

@[simp] theorem respond_cfg (code : RspCode) (native : Option Native) : (s.respond code native).cfg = s.cfg := rfl
@[simp] theorem respond_phase (code : RspCode) (native : Option Native) : (s.respond code native).phase = s.phase := rfl
@[simp] theorem respond_viol (code : RspCode) (native : Option Native) : (s.respond code native).viol = s.viol := rfl
@[simp] theorem respond_refd (code : RspCode) (native : Option Native) : (s.respond code native).refd = s.refd := rfl
@[simp] theorem respond_lastRsp (code : RspCode) (native : Option Native) : (s.respond code native).lastRsp = some ⟨code, native, s.phase, s.viol, s.refd⟩ := rfl
@[simp] theorem respond_pinCS (code : RspCode) (native : Option Native) : (s.respond code native).pinCS = s.pinCS := rfl
@[simp] theorem respond_pinDC (code : RspCode) (native : Option Native) : (s.respond code native).pinDC = s.pinDC := rfl
@[simp] theorem respond_pinRST (code : RspCode) (native : Option Native) : (s.respond code native).pinRST = s.pinRST := rfl
@[simp] theorem respond_seq (code : RspCode) (native : Option Native) : (s.respond code native).seq = .idle := rfl
@[simp] theorem respond_latches (code : RspCode) (native : Option Native) : (s.respond code native).latches = s.latches := rfl
@[simp] theorem respond_polls (code : RspCode) (native : Option Native) : (s.respond code native).polls = s.polls := rfl
@[simp] theorem respond_requests (code : RspCode) (native : Option Native) : (s.respond code native).requests = s.requests := rfl
@[simp] theorem respond_pinIn (code : RspCode) (native : Option Native) : (s.respond code native).pinIn = s.pinIn := rfl
@[simp] theorem respond_busyIn (code : RspCode) (native : Option Native) : (s.respond code native).busyIn = s.busyIn := rfl
@[simp] theorem respond_busIn (code : RspCode) (native : Option Native) : (s.respond code native).busIn = s.busIn := rfl
@[simp] theorem respond_freed (code : RspCode) (native : Option Native) : (s.respond code native).freed = s.freed := rfl
@[simp] theorem respond_history (code : RspCode) (native : Option Native) : (s.respond code native).history = s.history ++ [.rsp code native] := rfl

/-! ### accept -/

@[simp] theorem accept_cfg (r : Request) (more : List Request) : (s.accept r more).cfg = s.cfg := rfl
@[simp] theorem accept_phase (r : Request) (more : List Request) : (s.accept r more).phase = s.phase := rfl
@[simp] theorem accept_viol (r : Request) (more : List Request) : (s.accept r more).viol = s.viol := rfl
@[simp] theorem accept_refd (r : Request) (more : List Request) : (s.accept r more).refd = s.refd := rfl
@[simp] theorem accept_lastRsp (r : Request) (more : List Request) : (s.accept r more).lastRsp = s.lastRsp := rfl
@[simp] theorem accept_pinCS (r : Request) (more : List Request) : (s.accept r more).pinCS = s.pinCS := rfl
@[simp] theorem accept_pinDC (r : Request) (more : List Request) : (s.accept r more).pinDC = s.pinDC := rfl
@[simp] theorem accept_pinRST (r : Request) (more : List Request) : (s.accept r more).pinRST = s.pinRST := rfl
@[simp] theorem accept_seq (r : Request) (more : List Request) : (s.accept r more).seq = s.seq := rfl
@[simp] theorem accept_latches (r : Request) (more : List Request) : (s.accept r more).latches = s.latches := rfl
@[simp] theorem accept_polls (r : Request) (more : List Request) : (s.accept r more).polls = s.polls := rfl
@[simp] theorem accept_requests (r : Request) (more : List Request) : (s.accept r more).requests = more := rfl
@[simp] theorem accept_pinIn (r : Request) (more : List Request) : (s.accept r more).pinIn = s.pinIn := rfl
@[simp] theorem accept_busyIn (r : Request) (more : List Request) : (s.accept r more).busyIn = s.busyIn := rfl
@[simp] theorem accept_busIn (r : Request) (more : List Request) : (s.accept r more).busIn = s.busIn := rfl
@[simp] theorem accept_freed (r : Request) (more : List Request) : (s.accept r more).freed = s.freed := rfl
@[simp] theorem accept_history (r : Request) (more : List Request) : (s.accept r more).history = s.history ++ [.req r.word r.payload] := rfl

/-! ### setPin -/

@[simp] theorem setPin_cfg (p : OutPin) (v : PinLevel) : (s.setPin p v).cfg = s.cfg := by cases p <;> rfl
@[simp] theorem setPin_phase (p : OutPin) (v : PinLevel) : (s.setPin p v).phase = s.phase := by cases p <;> rfl
@[simp] theorem setPin_viol (p : OutPin) (v : PinLevel) : (s.setPin p v).viol = s.viol := by cases p <;> rfl
@[simp] theorem setPin_refd (p : OutPin) (v : PinLevel) : (s.setPin p v).refd = s.refd := by cases p <;> rfl
@[simp] theorem setPin_lastRsp (p : OutPin) (v : PinLevel) : (s.setPin p v).lastRsp = s.lastRsp := by cases p <;> rfl
@[simp] theorem setPin_pinCS (p : OutPin) (v : PinLevel) :
    (s.setPin p v).pinCS = if p = .CS then v else s.pinCS := by cases p <;> rfl
@[simp] theorem setPin_pinDC (p : OutPin) (v : PinLevel) :
    (s.setPin p v).pinDC = if p = .DC then v else s.pinDC := by cases p <;> rfl
@[simp] theorem setPin_pinRST (p : OutPin) (v : PinLevel) :
    (s.setPin p v).pinRST = if p = .RST then v else s.pinRST := by cases p <;> rfl
@[simp] theorem setPin_seq (p : OutPin) (v : PinLevel) : (s.setPin p v).seq = s.seq := by cases p <;> rfl
@[simp] theorem setPin_latches (p : OutPin) (v : PinLevel) : (s.setPin p v).latches = s.latches := by cases p <;> rfl
@[simp] theorem setPin_polls (p : OutPin) (v : PinLevel) : (s.setPin p v).polls = s.polls := by cases p <;> rfl
@[simp] theorem setPin_requests (p : OutPin) (v : PinLevel) : (s.setPin p v).requests = s.requests := by cases p <;> rfl
@[simp] theorem setPin_pinIn (p : OutPin) (v : PinLevel) : (s.setPin p v).pinIn = s.pinIn := by cases p <;> rfl
@[simp] theorem setPin_busyIn (p : OutPin) (v : PinLevel) : (s.setPin p v).busyIn = s.busyIn := by cases p <;> rfl
@[simp] theorem setPin_busIn (p : OutPin) (v : PinLevel) : (s.setPin p v).busIn = s.busIn := by cases p <;> rfl
@[simp] theorem setPin_freed (p : OutPin) (v : PinLevel) : (s.setPin p v).freed = s.freed := by cases p <;> rfl
@[simp] theorem setPin_history (p : OutPin) (v : PinLevel) : (s.setPin p v).history = s.history := by cases p <;> rfl

/-! ### The pin accessor -/

@[simp] theorem pin_CS : s.pin .CS = s.pinCS := rfl
@[simp] theorem pin_DC : s.pin .DC = s.pinDC := rfl
@[simp] theorem pin_RST : s.pin .RST = s.pinRST := rfl
@[simp] theorem setPhase_pin (ph : Phase) (p : OutPin) : (s.setPhase ph).pin p = s.pin p := by cases p <;> rfl
@[simp] theorem checkPhase_pin (op : Operation) (p : OutPin) : (s.checkPhase op).pin p = s.pin p := by cases p <;> rfl
@[simp] theorem setRefd_pin (p : OutPin) : (s.setRefd).pin p = s.pin p := by cases p <;> rfl
@[simp] theorem emit_pin (e : Event) (p : OutPin) : (s.emit e).pin p = s.pin p := by cases p <;> rfl
@[simp] theorem takePin_pin (p : OutPin) : (s.takePin).pin p = s.pin p := by cases p <;> rfl
@[simp] theorem takeBusy_pin (p : OutPin) : (s.takeBusy).pin p = s.pin p := by cases p <;> rfl
@[simp] theorem takeBus_pin (p : OutPin) : (s.takeBus).pin p = s.pin p := by cases p <;> rfl
@[simp] theorem setPolls_pin (n : Nat) (p : OutPin) : (s.setPolls n).pin p = s.pin p := by cases p <;> rfl
@[simp] theorem atPosition_pin (op : Operation) (pos : Nat) (p : OutPin) : (s.atPosition op pos).pin p = s.pin p := by cases p <;> rfl
@[simp] theorem atRelease_pin (op : Operation) (pos : Nat) (e : BusFault) (p : OutPin) : (s.atRelease op pos e).pin p = s.pin p := by cases p <;> rfl
@[simp] theorem loadLatches_pin (l : Latches) (p : OutPin) : (s.loadLatches l).pin p = s.pin p := by cases p <;> rfl
@[simp] theorem freeLatches_pin (p : OutPin) : (s.freeLatches).pin p = s.pin p := by cases p <;> rfl
@[simp] theorem respond_pin (code : RspCode) (native : Option Native) (p : OutPin) : (s.respond code native).pin p = s.pin p := by cases p <;> rfl
@[simp] theorem accept_pin (r : Request) (more : List Request) (p : OutPin) : (s.accept r more).pin p = s.pin p := by cases p <;> rfl
theorem setPin_pin (p q : OutPin) (v : PinLevel) : (s.setPin p v).pin q = if p = q then v else s.pin q := by
  cases p <;> cases q <;> rfl

end Sys2Proof.Machine.State
end

