-- ==== Sys2Proof/Laws/Ops.lean ====
section
/-! SUPPORT. What each shared operation does, said once: the draws, the primitives and their flow, the responses. -/

namespace Sys2Proof.Machine

/-! ### Draws -/

/-- Taking the next answer shifts the answers by one. -/
@[simp] theorem Answers.nth_rest {α : Type} (free : Nat → α) (q : Answers α) (k : Nat) :
    q.rest.nth free k = q.nth free (k + 1) := by
  obtain ⟨queued, drawn⟩ := q
  cases queued with
  | nil => simp [Answers.rest, Answers.nth]; congr 1; omega
  | cons a more => simp [Answers.rest, Answers.nth]

namespace State

variable (s : State)

/-- The answers a state will give depend on its three answer queues only. -/
theorem pinAnswer_congr {s t : State} (h : t.pinIn = s.pinIn) (k : Nat) : t.pinAnswer k = s.pinAnswer k := by
  simp [pinAnswer, h]

theorem busyAnswer_congr {s t : State} (h : t.busyIn = s.busyIn) (k : Nat) : t.busyAnswer k = s.busyAnswer k := by
  simp [busyAnswer, h]

theorem busAnswer_congr {s t : State} (h : t.busIn = s.busIn) (k : Nat) : t.busAnswer k = s.busAnswer k := by
  simp [busAnswer, h]

/-! ### Primitives: one lemma per field -/

@[simp] theorem driveLine_cfg (p : OutPin) (lvl : Level) : (s.driveLine p lvl).cfg = s.cfg := by simp [driveLine]
@[simp] theorem driveLine_phase (p : OutPin) (lvl : Level) : (s.driveLine p lvl).phase = s.phase := by simp [driveLine]
@[simp] theorem driveLine_viol (p : OutPin) (lvl : Level) : (s.driveLine p lvl).viol = s.viol := by simp [driveLine]
@[simp] theorem driveLine_refd (p : OutPin) (lvl : Level) : (s.driveLine p lvl).refd = s.refd := by simp [driveLine]
@[simp] theorem driveLine_lastRsp (p : OutPin) (lvl : Level) : (s.driveLine p lvl).lastRsp = s.lastRsp := by
  simp [driveLine]
@[simp] theorem driveLine_pinCS (p : OutPin) (lvl : Level) :
    (s.driveLine p lvl).pinCS = if p = .CS then recordedLevel lvl (s.pinAnswer 0) else s.pinCS := by simp [driveLine]
@[simp] theorem driveLine_pinDC (p : OutPin) (lvl : Level) :
    (s.driveLine p lvl).pinDC = if p = .DC then recordedLevel lvl (s.pinAnswer 0) else s.pinDC := by simp [driveLine]
@[simp] theorem driveLine_pinRST (p : OutPin) (lvl : Level) :
    (s.driveLine p lvl).pinRST = if p = .RST then recordedLevel lvl (s.pinAnswer 0) else s.pinRST := by
  simp [driveLine]
@[simp] theorem driveLine_seq (p : OutPin) (lvl : Level) : (s.driveLine p lvl).seq = s.seq := by simp [driveLine]
@[simp] theorem driveLine_latches (p : OutPin) (lvl : Level) : (s.driveLine p lvl).latches = s.latches := by
  simp [driveLine]
@[simp] theorem driveLine_polls (p : OutPin) (lvl : Level) : (s.driveLine p lvl).polls = s.polls := by simp [driveLine]
@[simp] theorem driveLine_requests (p : OutPin) (lvl : Level) : (s.driveLine p lvl).requests = s.requests := by
  simp [driveLine]
@[simp] theorem driveLine_pinIn (p : OutPin) (lvl : Level) : (s.driveLine p lvl).pinIn = s.pinIn.rest := by
  simp [driveLine]
@[simp] theorem driveLine_busyIn (p : OutPin) (lvl : Level) : (s.driveLine p lvl).busyIn = s.busyIn := by
  simp [driveLine]
@[simp] theorem driveLine_busIn (p : OutPin) (lvl : Level) : (s.driveLine p lvl).busIn = s.busIn := by simp [driveLine]
@[simp] theorem driveLine_freed (p : OutPin) (lvl : Level) : (s.driveLine p lvl).freed = s.freed := by simp [driveLine]
@[simp] theorem driveLine_history (p : OutPin) (lvl : Level) :
    (s.driveLine p lvl).history = s.history ++ [.set p lvl (s.pinAnswer 0)] := by simp [driveLine]

/-- A pin set records the driven level, or `U`, on its own line only. -/
theorem driveLine_pin (p q : OutPin) (lvl : Level) :
    (s.driveLine p lvl).pin q = if p = q then recordedLevel lvl (s.pinAnswer 0) else s.pin q := by
  cases p <;> cases q <;> rfl

/-! ### The answers left after each update -/

@[simp] theorem driveLine_pinAnswer (p : OutPin) (lvl : Level) (k : Nat) :
    (s.driveLine p lvl).pinAnswer k = s.pinAnswer (k + 1) := by simp [pinAnswer]
@[simp] theorem driveLine_busAnswer (p : OutPin) (lvl : Level) (k : Nat) :
    (s.driveLine p lvl).busAnswer k = s.busAnswer k := by simp [busAnswer]
@[simp] theorem driveLine_busyAnswer (p : OutPin) (lvl : Level) (k : Nat) :
    (s.driveLine p lvl).busyAnswer k = s.busyAnswer k := by simp [busyAnswer]
@[simp] theorem takePin_pinAnswer (k : Nat) : s.takePin.pinAnswer k = s.pinAnswer (k + 1) := by simp [pinAnswer]
@[simp] theorem takePin_busAnswer (k : Nat) : s.takePin.busAnswer k = s.busAnswer k := rfl
@[simp] theorem takePin_busyAnswer (k : Nat) : s.takePin.busyAnswer k = s.busyAnswer k := rfl
@[simp] theorem takeBus_pinAnswer (k : Nat) : s.takeBus.pinAnswer k = s.pinAnswer k := rfl
@[simp] theorem takeBus_busAnswer (k : Nat) : s.takeBus.busAnswer k = s.busAnswer (k + 1) := by simp [busAnswer]
@[simp] theorem takeBus_busyAnswer (k : Nat) : s.takeBus.busyAnswer k = s.busyAnswer k := rfl
@[simp] theorem takeBusy_pinAnswer (k : Nat) : s.takeBusy.pinAnswer k = s.pinAnswer k := rfl
@[simp] theorem takeBusy_busAnswer (k : Nat) : s.takeBusy.busAnswer k = s.busAnswer k := rfl
@[simp] theorem takeBusy_busyAnswer (k : Nat) : s.takeBusy.busyAnswer k = s.busyAnswer (k + 1) := by
  simp [busyAnswer]
@[simp] theorem emit_pinAnswer (e : Event) (k : Nat) : (s.emit e).pinAnswer k = s.pinAnswer k := rfl
@[simp] theorem emit_busAnswer (e : Event) (k : Nat) : (s.emit e).busAnswer k = s.busAnswer k := rfl
@[simp] theorem emit_busyAnswer (e : Event) (k : Nat) : (s.emit e).busyAnswer k = s.busyAnswer k := rfl
@[simp] theorem setPolls_pinAnswer (n k : Nat) : (s.setPolls n).pinAnswer k = s.pinAnswer k := rfl
@[simp] theorem setPolls_busAnswer (n k : Nat) : (s.setPolls n).busAnswer k = s.busAnswer k := rfl
@[simp] theorem setPolls_busyAnswer (n k : Nat) : (s.setPolls n).busyAnswer k = s.busyAnswer k := rfl
@[simp] theorem atPosition_pinAnswer (op : Operation) (pos k : Nat) :
    (s.atPosition op pos).pinAnswer k = s.pinAnswer k := rfl
@[simp] theorem atPosition_busAnswer (op : Operation) (pos k : Nat) :
    (s.atPosition op pos).busAnswer k = s.busAnswer k := rfl
@[simp] theorem atPosition_busyAnswer (op : Operation) (pos k : Nat) :
    (s.atPosition op pos).busyAnswer k = s.busyAnswer k := rfl
@[simp] theorem loadLatches_pinAnswer (l : Latches) (k : Nat) : (s.loadLatches l).pinAnswer k = s.pinAnswer k := rfl
@[simp] theorem loadLatches_busAnswer (l : Latches) (k : Nat) : (s.loadLatches l).busAnswer k = s.busAnswer k := rfl
@[simp] theorem loadLatches_busyAnswer (l : Latches) (k : Nat) :
    (s.loadLatches l).busyAnswer k = s.busyAnswer k := rfl
@[simp] theorem checkPhase_pinAnswer (op : Operation) (k : Nat) : (s.checkPhase op).pinAnswer k = s.pinAnswer k := rfl
@[simp] theorem checkPhase_busAnswer (op : Operation) (k : Nat) : (s.checkPhase op).busAnswer k = s.busAnswer k := rfl
@[simp] theorem checkPhase_busyAnswer (op : Operation) (k : Nat) :
    (s.checkPhase op).busyAnswer k = s.busyAnswer k := rfl

@[simp] theorem countPoll_pinAnswer (k : Nat) : s.countPoll.pinAnswer k = s.pinAnswer k := rfl
@[simp] theorem countPoll_busAnswer (k : Nat) : s.countPoll.busAnswer k = s.busAnswer k := rfl
@[simp] theorem countPoll_busyAnswer (k : Nat) : s.countPoll.busyAnswer k = s.busyAnswer k := rfl

/-! ### The sample of BusyWait -/

/-- Everything the sample of BusyWait does, by its answer: only a successful one is counted. -/
theorem readBusy_ok {lvl : Level} (h : s.busyAnswer 0 = .ok lvl) : s.readBusy = s.sampleBusy.countPoll := by
  simp [readBusy, h]

theorem readBusy_err {e : PinFault} (h : s.busyAnswer 0 = .err e) : s.readBusy = s.sampleBusy := by
  simp [readBusy, h]

/-- The bound of BusyWait after a successful sample. -/
theorem readBusy_boundReached {lvl : Level} (h : s.busyAnswer 0 = .ok lvl) :
    s.readBusy.pollBoundReached = true ↔ ∃ n, s.cfg.busyMaxSamples = some n ∧ n ≤ s.polls + 1 := by
  have hc : s.sampleBusy.countPoll.cfg = s.cfg := rfl
  have hp : s.sampleBusy.countPoll.polls = s.polls + 1 := rfl
  rw [readBusy_ok s h, pollBoundReached, hc, hp]
  cases s.cfg.busyMaxSamples <;> simp

end State

end Sys2Proof.Machine
end

