-- ==== Sys2Proof/Laws/PerInstr.lean ====
section
/-! SUPPORT. The family OpField: the `OP` field of an instruction's request is the one R66 gives its
operation (R86, R87 for the names of R76 and R87). -/

namespace Sys2Proof.Laws.OpField

/-- The `OP` of a raw send (R86). -/
def rawOp (opt : Option (List Byte)) : BitVec 4 := if opt.isSome then 3#4 else 1#4

/-- The `OP` R66 gives an instruction. -/
def op : Instr → BitVec 4
  | .sendCommand _ => 1#4
  | .sendData _ => 2#4
  | .sendCommandData _ _ => 3#4
  | .reset => 4#4
  | .busyWait => 5#4
  | .setAddressCounter _ _ => 6#4
  | .init => 7#4
  | .updatePlane _ _ => 8#4
  | .refresh => 9#4
  | .updateBw _ => 8#4
  | .updateRed _ => 8#4
  | .reservedOp rq _ => opField rq
  | .opcSwReset opt => rawOp opt
  | .opcDriverOutputControl opt => rawOp opt
  | .opcDataEntryMode opt => rawOp opt
  | .opcRamXWindow opt => rawOp opt
  | .opcRamYWindow opt => rawOp opt
  | .opcRamXCounter opt => rawOp opt
  | .opcRamYCounter opt => rawOp opt
  | .opcBorderWaveform opt => rawOp opt
  | .opcDuc1 opt => rawOp opt
  | .opcDuc2 opt => rawOp opt
  | .opcWriteRamBw opt => rawOp opt
  | .opcWriteRamRed opt => rawOp opt
  | .opcMasterActivation opt => rawOp opt

/-- The encoder puts the instruction's `OP` into the word, whatever the command bytes are. -/
def Statement (i : Instr) : Prop := ∀ t : Opcodes, opField (encode t i).word = op i

/-- The request of a raw send carries the raw send's `OP`. -/
theorem opField_encodeRaw (c : Byte) (opt : Option (List Byte)) : opField (encodeRaw c opt).word = rawOp opt := by
  cases opt <;> simp [encodeRaw, rawOp]

theorem sendCommand (c : Byte) : Statement (.sendCommand c) := fun _ => opField_requestWord _ _ _ _ _
theorem sendData (P : List Byte) : Statement (.sendData P) := fun _ => opField_requestWord _ _ _ _ _
theorem sendCommandData (c : Byte) (opt : Option (List Byte)) : Statement (.sendCommandData c opt) := by
  intro t; cases opt <;> exact opField_requestWord _ _ _ _ _
theorem reset : Statement .reset := fun _ => opField_requestWord _ _ _ _ _
theorem busyWait : Statement .busyWait := fun _ => opField_requestWord _ _ _ _ _
theorem setAddressCounter (x : Byte) (y : Half) : Statement (.setAddressCounter x y) :=
  fun _ => opField_requestWord _ _ _ _ _
theorem init : Statement .init := fun _ => opField_requestWord _ _ _ _ _
theorem updatePlane (sel : Plane) (buf : List Byte) : Statement (.updatePlane sel buf) :=
  fun _ => opField_requestWord _ _ _ _ _
theorem refresh : Statement .refresh := fun _ => opField_requestWord _ _ _ _ _
theorem updateBw (buf : List Byte) : Statement (.updateBw buf) := fun _ => opField_requestWord _ _ _ _ _
theorem updateRed (buf : List Byte) : Statement (.updateRed buf) := fun _ => opField_requestWord _ _ _ _ _
theorem reservedOp (rq : Word) (P : List Byte) : Statement (.reservedOp rq P) := fun _ => rfl
theorem opcSwReset (opt : Option (List Byte)) : Statement (.opcSwReset opt) := fun _ => opField_encodeRaw _ _
theorem opcDriverOutputControl (opt : Option (List Byte)) : Statement (.opcDriverOutputControl opt) :=
  fun _ => opField_encodeRaw _ _
theorem opcDataEntryMode (opt : Option (List Byte)) : Statement (.opcDataEntryMode opt) :=
  fun _ => opField_encodeRaw _ _
theorem opcRamXWindow (opt : Option (List Byte)) : Statement (.opcRamXWindow opt) := fun _ => opField_encodeRaw _ _
theorem opcRamYWindow (opt : Option (List Byte)) : Statement (.opcRamYWindow opt) := fun _ => opField_encodeRaw _ _
theorem opcRamXCounter (opt : Option (List Byte)) : Statement (.opcRamXCounter opt) := fun _ => opField_encodeRaw _ _
theorem opcRamYCounter (opt : Option (List Byte)) : Statement (.opcRamYCounter opt) := fun _ => opField_encodeRaw _ _
theorem opcBorderWaveform (opt : Option (List Byte)) : Statement (.opcBorderWaveform opt) :=
  fun _ => opField_encodeRaw _ _
theorem opcDuc1 (opt : Option (List Byte)) : Statement (.opcDuc1 opt) := fun _ => opField_encodeRaw _ _
theorem opcDuc2 (opt : Option (List Byte)) : Statement (.opcDuc2 opt) := fun _ => opField_encodeRaw _ _
theorem opcWriteRamBw (opt : Option (List Byte)) : Statement (.opcWriteRamBw opt) := fun _ => opField_encodeRaw _ _
theorem opcWriteRamRed (opt : Option (List Byte)) : Statement (.opcWriteRamRed opt) := fun _ => opField_encodeRaw _ _
theorem opcMasterActivation (opt : Option (List Byte)) : Statement (.opcMasterActivation opt) :=
  fun _ => opField_encodeRaw _ _

end Sys2Proof.Laws.OpField
end

