-- ==== Sys2Proof/Laws/Steps.lean ====
section
/-! SUPPORT. What a primitive, an instruction, a step and the steps of a whole operation can do, each said once: a
proof about them starts from these and never unfolds the sequencer. -/

namespace Sys2Proof.Machine

/-! ### Histories that go on -/

@[simp] theorem lineAfter_nil (p : OutPin) (v : PinLevel) : lineAfter p v [] = v := rfl
@[simp] theorem lineAfter_append (p : OutPin) (v : PinLevel) (a b : List Event) :
    lineAfter p v (a ++ b) = lineAfter p (lineAfter p v a) b := by simp [lineAfter]
@[simp] theorem lineAfter_cons (p : OutPin) (v : PinLevel) (e : Event) (h : List Event) :
    lineAfter p v (e :: h) = lineAfter p (e.record p v) h := rfl

/-- The bus transactions of a history that goes on. -/
theorem transactions_append (a b : List Event) : ∀ dc cs, transactions dc cs (a ++ b) =
    transactions dc cs a ++ transactions (lineAfter .DC dc a) (lineAfter .CS cs a) b := by
  induction a with
  | nil => intro dc cs; rfl
  | cons e a ih => intro dc cs; cases e <;> simp [transactions, ih, Event.record]

/-- The responses of a history that goes on. -/
theorem responses_append (a b : List Event) : responses (a ++ b) = responses a ++ responses b := by
  induction a with
  | nil => rfl
  | cons e a ih => cases e <;> simp [responses, ih]

/-- The bracketing of a history that goes on. -/
theorem bracket_append (a b : List Event) : bracket (a ++ b) = b.foldl Bracket.next (bracket a) := by
  simp [bracket]

/-! ### What a piece of an operation leaves -/

/-- From `s` to `t` the events `evs` have been emitted and the pins follow them; the configuration, the status
registers, `LAST_RSP`, the latches, the host's requests and the count of free values are as they were. -/
structure Emitted (s t : State) (evs : List Event) : Prop where
  history : t.history = s.history ++ evs
  cfg : t.cfg = s.cfg
  phase : t.phase = s.phase
  viol : t.viol = s.viol
  refd : t.refd = s.refd
  lastRsp : t.lastRsp = s.lastRsp
  latches : t.latches = s.latches
  requests : t.requests = s.requests
  freed : t.freed = s.freed
  pin : ∀ p, t.pin p = lineAfter p (s.pin p) evs

theorem Emitted.refl (s : State) : Emitted s s [] := by constructor <;> simp

theorem Emitted.trans {a b c : State} {e1 e2 : List Event} (h1 : Emitted a b e1) (h2 : Emitted b c e2) :
    Emitted a c (e1 ++ e2) where
  history := by rw [h2.history, h1.history, List.append_assoc]
  cfg := h2.cfg.trans h1.cfg
  phase := h2.phase.trans h1.phase
  viol := h2.viol.trans h1.viol
  refd := h2.refd.trans h1.refd
  lastRsp := h2.lastRsp.trans h1.lastRsp
  latches := h2.latches.trans h1.latches
  requests := h2.requests.trans h1.requests
  freed := h2.freed.trans h1.freed
  pin p := by rw [h2.pin, h1.pin, lineAfter_append]

/-- The sequence stays while the configuration and the latches do. -/
theorem Emitted.sequence {s t : State} {evs : List Event} (h : Emitted s t evs) (op : Operation) :
    t.sequence op = s.sequence op := by simp [State.sequence, h.cfg, h.latches]

theorem emitted_atPosition (op : Operation) (pos : Nat) (s : State) : Emitted s (s.atPosition op pos) [] := by
  constructor <;> simp

theorem emitted_atRelease (op : Operation) (pos : Nat) (e : BusFault) (s : State) :
    Emitted s (s.atRelease op pos e) [] := by constructor <;> simp

theorem emitted_driveLine (p : OutPin) (lvl : Level) (s : State) :
    Emitted s (s.driveLine p lvl) [.set p lvl (s.pinAnswer 0)] := by
  constructor
  case pin => intro q; rw [State.driveLine_pin]; simp [Event.record]
  all_goals simp

theorem emitted_writeBus (P : List Byte) (s : State) : Emitted s (s.writeBus P) [.write P (s.busAnswer 0)] := by
  constructor <;> simp [State.writeBus, Event.record]

theorem emitted_sampleBusy (s : State) : Emitted s s.sampleBusy [.sample (s.busyAnswer 0)] := by
  constructor <;> simp [State.sampleBusy, Event.record]

theorem emitted_setPolls (n : Nat) (s : State) : Emitted s (s.setPolls n) [] := by constructor <;> simp

theorem emitted_sleep (ms : Nat) (s : State) : Emitted s (s.emit (.sleep ms)) [.sleep ms] := by
  constructor <;> simp [Event.record]

/-! ### One primitive -/

/-- A primitive appends its one event, its line follows it, and nothing of the status changes. -/
theorem emitted_perform (m : Primitive) (s : State) : Emitted s (m.perform s) [m.event s] := by
  cases m with
  | pinSet p lvl => exact emitted_driveLine p lvl s
  | busWrite P => exact emitted_writeBus P s
  | sleep ms => exact emitted_sleep ms s
  | pinRead =>
    show Emitted s s.readBusy _
    cases h : s.busyAnswer 0 with
    | ok lvl =>
      rw [State.readBusy_ok s h]
      exact (emitted_sampleBusy s).trans (emitted_setPolls _ _)
    | err e => rw [State.readBusy_err s h]; exact emitted_sampleBusy s
  | pollSleep ms => exact emitted_sleep ms s

/-- Arriving at a primitive touches `POLLS` only. -/
theorem emitted_arrive (m : Primitive) (s : State) : Emitted s (m.arrive s) [] := by
  cases m <;> first | exact Emitted.refl s | exact emitted_setPolls 0 s

/-- A primitive of a frame or of the reset pulse: neither of the two of BusyWait. -/
def Primitive.straight : Primitive → Bool
  | .pinSet _ _ => true
  | .busWrite _ => true
  | .sleep _ => true
  | .pinRead => false
  | .pollSleep _ => false

/-- The event of a primitive that completes (the sample: of the one that ends the wait). -/
def Primitive.okEvent : Primitive → Event
  | .pinSet p lvl => .set p lvl .ok
  | .busWrite P => .write P .ok
  | .sleep ms => .sleep ms
  | .pinRead => .sample (.ok .L)
  | .pollSleep ms => .sleep ms

/-- How a primitive fails, by its event and the failure: R11, R90, R102. -/
def FailsWith (c : Config) (m : Primitive) (e : Event) (f : Failure) : Prop :=
  (∃ p lvl x, m = .pinSet p lvl ∧ e = .set p lvl (.err x) ∧ f = .pin x) ∨
  (∃ x, m = .pinRead ∧ e = .sample (.err x) ∧ f = .pin x) ∨
  (∃ P x, m = .busWrite P ∧ e = .write P (.err x) ∧ c.csReleaseOnFail = false ∧ f = .bus x) ∨
  (m = .pinRead ∧ e = .sample (.ok .H) ∧ c.busyMaxSamples.isSome = true ∧ f = .timeout)

/-- Everything a primitive can do: where it sends control, and the event that goes with it. -/
theorem flow_cases (m : Primitive) (s : State) :
    (m.straight = true ∧ m.flow s = .advance ∧ m.event s = m.okEvent) ∨
    (m = .pinRead ∧ m.flow s = .advance ∧ m.event s = .sample (.ok .H)) ∨
    (m = .pinRead ∧ m.flow s = .leaveWait ∧ m.event s = .sample (.ok .L)) ∨
    (∃ ms, m = .pollSleep ms ∧ m.flow s = .repeatWait ∧ m.event s = .sleep ms) ∨
    (∃ f, m.flow s = .fail f ∧ FailsWith s.cfg m (m.event s) f) ∨
    (∃ P x, m = .busWrite P ∧ m.flow s = .release x ∧ m.event s = .write P (.err x) ∧ s.cfg.csReleaseOnFail = true) := by
  cases m with
  | pinSet p lvl =>
    cases h : s.pinAnswer 0 with
    | ok => exact .inl ⟨rfl, by simp [Primitive.flow, h], by simp [Primitive.event, Primitive.okEvent, h]⟩
    | err x =>
      exact .inr (.inr (.inr (.inr (.inl ⟨.pin x, by simp [Primitive.flow, h], .inl ⟨p, lvl, x, rfl,
        by simp [Primitive.event, h], rfl⟩⟩))))
  | busWrite P =>
    cases h : s.busAnswer 0 with
    | ok => exact .inl ⟨rfl, by simp [Primitive.flow, h], by simp [Primitive.event, Primitive.okEvent, h]⟩
    | err x =>
      have he : Primitive.event s (.busWrite P) = .write P (.err x) := by simp [Primitive.event, h]
      cases hc : s.cfg.csReleaseOnFail with
      | false =>
        exact .inr (.inr (.inr (.inr (.inl ⟨.bus x, by simp [Primitive.flow, h, hc],
          .inr (.inr (.inl ⟨P, x, rfl, he, hc, rfl⟩))⟩))))
      | true => exact .inr (.inr (.inr (.inr (.inr ⟨P, x, rfl, by simp [Primitive.flow, h, hc], he, rfl⟩))))
  | sleep ms => exact .inl ⟨rfl, rfl, rfl⟩
  | pinRead =>
    cases h : s.busyAnswer 0 with
    | err x =>
      exact .inr (.inr (.inr (.inr (.inl ⟨.pin x, by simp [Primitive.flow, h],
        .inr (.inl ⟨x, rfl, by simp [Primitive.event, h], rfl⟩)⟩))))
    | ok lvl =>
      cases lvl with
      | L => exact .inr (.inr (.inl ⟨rfl, by simp [Primitive.flow, h], by simp [Primitive.event, h]⟩))
      | H =>
        cases hb : s.readBusy.pollBoundReached with
        | false => exact .inr (.inl ⟨rfl, by simp [Primitive.flow, h, hb], by simp [Primitive.event, h]⟩)
        | true =>
          obtain ⟨n, hn, -⟩ := (State.readBusy_boundReached s h).mp hb
          exact .inr (.inr (.inr (.inr (.inl ⟨.timeout, by simp [Primitive.flow, h, hb],
            .inr (.inr (.inr ⟨rfl, by simp [Primitive.event, h], by simp [hn], rfl⟩))⟩))))
  | pollSleep ms => exact .inr (.inr (.inr (.inl ⟨ms, rfl, rfl, rfl⟩)))

/-! ### The sequencer -/

/-- Arriving at a position that the sequence has. -/
theorem enter_some {s : State} {op : Operation} {pos : Nat} {m : Primitive} (h : (s.sequence op)[pos]? = some m) :
    s.enter op pos = (m.arrive s).atPosition op pos := by simp [State.enter, h]

/-- Past the last primitive the operation returns `OK`. -/
theorem enter_none {s : State} {op : Operation} {pos : Nat} (h : (s.sequence op)[pos]? = none) :
    s.enter op pos = s.returnOk op := by simp [State.enter, h]

/-- Every sequence has a first primitive. -/
theorem sequence_pos (c : Config) (l : Latches) (op : Operation) : 0 < (op.primitives c l).length := by
  cases op <;> simp [Operation.primitives, sendCommandPrimitives, sendDataPrimitives, sendCommandDataPrimitives,
    resetPrimitives, busyWaitPrimitives, setAddressCounterPrimitives, initPrimitives, updatePlanePrimitives,
    refreshPrimitives, cmdFrame, dataFrame, resetPulse, busyWait, setAddressCounter, cmdDataFrame, InitStep.all,
    InitStep.primitives]
  cases l.payload <;> simp

/-- The first primitive of a sequence is a sample for BUSY_WAIT alone. -/
theorem sequence_first (c : Config) (l : Latches) (op : Operation) :
    (op.primitives c l)[0]? = some .pinRead ↔ op = .busyWait := by
  cases op <;> simp [Operation.primitives, sendCommandPrimitives, sendDataPrimitives, sendCommandDataPrimitives,
    resetPrimitives, busyWaitPrimitives, setAddressCounterPrimitives, initPrimitives, updatePlanePrimitives,
    refreshPrimitives, cmdFrame, dataFrame, resetPulse, busyWait, setAddressCounter, cmdDataFrame, InitStep.all,
    InitStep.primitives]
  cases l.payload <;> simp

/-- BusyWait's two primitives stand side by side, all through a sequence. -/
def WaitsPaired (ms : Nat) : List Primitive → Prop
  | [] => True
  | .pinRead :: .pollSleep n :: rest => n = ms ∧ WaitsPaired ms rest
  | .pinRead :: _ => False
  | .pollSleep _ :: _ => False
  | .pinSet _ _ :: rest => WaitsPaired ms rest
  | .busWrite _ :: rest => WaitsPaired ms rest
  | .sleep _ :: rest => WaitsPaired ms rest

theorem sequence_waitsPaired (c : Config) (l : Latches) (op : Operation) :
    WaitsPaired c.tPollMs (op.primitives c l) := by
  have hi : ∀ o1 o2 o3 : Option (List Byte), WaitsPaired c.tPollMs
      (cmdDataFrame c.opcodes.borderWaveform o1 ++ (cmdDataFrame c.opcodes.duc1 o2 ++ cmdDataFrame c.opcodes.duc2 o3)) := by
    intro o1 o2 o3
    cases o1 <;> cases o2 <;> cases o3 <;> simp [cmdDataFrame, cmdFrame, dataFrame, WaitsPaired]
  cases op with
  | sendCommandData =>
    simp only [Operation.primitives, sendCommandDataPrimitives, cmdDataFrame]
    cases l.payload <;> simp [cmdFrame, dataFrame, WaitsPaired]
  | init =>
    simp only [Operation.primitives, initPrimitives, InitStep.all, InitStep.primitives, List.flatMap_cons,
      List.flatMap_nil, List.append_nil]
    simpa [cmdDataFrame, cmdFrame, dataFrame, resetPulse, busyWait, WaitsPaired] using hi _ _ _
  | _ => simp [Operation.primitives, sendCommandPrimitives, sendDataPrimitives, resetPrimitives, busyWaitPrimitives,
      setAddressCounterPrimitives, updatePlanePrimitives, refreshPrimitives, setAddressCounter, cmdDataFrame, cmdFrame,
      dataFrame, resetPulse, busyWait, WaitsPaired]

theorem WaitsPaired.after_pinRead {ms : Nat} : ∀ {l : List Primitive}, WaitsPaired ms l → ∀ {pos : Nat},
    l[pos]? = some .pinRead → l[pos + 1]? = some (.pollSleep ms) := by
  intro l
  fun_induction WaitsPaired ms l with
  | case1 => intro _ pos h; simp at h
  | case2 n rest ih =>
    rintro ⟨rfl, h⟩ pos hp
    match pos with
    | 0 => rfl
    | 1 => simp at hp
    | pos + 2 => simpa using ih h (by simpa using hp)
  | case3 => intro h; exact h.elim
  | case4 => intro h; exact h.elim
  | case5 p lvl rest ih =>
    intro h pos hp
    cases pos with
    | zero => simp at hp
    | succ pos => simpa using ih h (by simpa using hp)
  | case6 P rest ih =>
    intro h pos hp
    cases pos with
    | zero => simp at hp
    | succ pos => simpa using ih h (by simpa using hp)
  | case7 n rest ih =>
    intro h pos hp
    cases pos with
    | zero => simp at hp
    | succ pos => simpa using ih h (by simpa using hp)

theorem WaitsPaired.before_pollSleep {ms : Nat} : ∀ {l : List Primitive}, WaitsPaired ms l → ∀ {pos n : Nat},
    l[pos]? = some (.pollSleep n) → ∃ k, pos = k + 1 ∧ l[k]? = some .pinRead := by
  intro l
  fun_induction WaitsPaired ms l with
  | case1 => intro _ pos n h; simp at h
  | case2 n rest ih =>
    rintro ⟨rfl, h⟩ pos n' hp
    match pos with
    | 0 => simp at hp
    | 1 => exact ⟨0, rfl, rfl⟩
    | pos + 2 =>
      obtain ⟨k, rfl, hk⟩ := ih h (by simpa using hp)
      exact ⟨k + 2, rfl, by simpa using hk⟩
  | case3 => intro h; exact h.elim
  | case4 => intro h; exact h.elim
  | case5 p lvl rest ih =>
    intro h pos n hp
    cases pos with
    | zero => simp at hp
    | succ pos => obtain ⟨k, rfl, hk⟩ := ih h (by simpa using hp); exact ⟨k + 1, rfl, by simpa using hk⟩
  | case6 P rest ih =>
    intro h pos n hp
    cases pos with
    | zero => simp at hp
    | succ pos => obtain ⟨k, rfl, hk⟩ := ih h (by simpa using hp); exact ⟨k + 1, rfl, by simpa using hk⟩
  | case7 n' rest ih =>
    intro h pos n hp
    cases pos with
    | zero => simp at hp
    | succ pos => obtain ⟨k, rfl, hk⟩ := ih h (by simpa using hp); exact ⟨k + 1, rfl, by simpa using hk⟩

/-! ### Beginning an operation -/

/-- The state in which an operation begins, but for the count of its first wait. -/
def begun (op : Operation) (l : Latches) (s : State) : State := (s.loadLatches l).checkPhase op

/-- Beginning an operation changes the latches and `VIOL`, and nothing else. -/
theorem begun_eq (op : Operation) (l : Latches) (s : State) :
    begun op l s = { s with latches := l, viol := s.viol || !op.validIn s.phase } := rfl

theorem start_eq_enter (op : Operation) (l : Latches) (s : State) : s.start op l = (begun op l s).enter op 0 := rfl

@[simp] theorem begun_sequence (op : Operation) (l : Latches) (s : State) :
    (begun op l s).sequence op = op.primitives s.cfg l := rfl

/-- The start of an operation, field by field: R22, R26, R31, R70. -/
theorem start_eq (op : Operation) (l : Latches) (s : State) :
    s.start op l = { s with
      latches := l
      viol := s.viol || !op.validIn s.phase
      polls := if op = .busyWait then 0 else s.polls
      seq := .run op 0 } := by
  obtain ⟨m, hm⟩ : ∃ m, ((begun op l s).sequence op)[0]? = some m :=
    ⟨_, List.getElem?_eq_getElem (sequence_pos s.cfg l op)⟩
  have hf := sequence_first s.cfg l op
  rw [start_eq_enter, enter_some hm]
  rw [begun_sequence] at hm
  rw [hm] at hf
  by_cases hb : op = .busyWait
  · have : m = .pinRead := by simpa [hb] using hf
    subst this; subst hb; rfl
  · have hne : m ≠ .pinRead := fun h => hb (hf.mp (by rw [h]))
    cases m with
    | pinRead => exact absurd rfl hne
    | _ => simp only [Primitive.arrive, if_neg hb]; rfl

/-! ### The geometry -/

/-- The RAM-X-window payload of a record, by its columns (R8, R80). -/
theorem ramXWindowPayload_eq (c : Config) : ramXWindowPayload c = [0x00#8, BitVec.ofNat 8 (c.cols / 8 - 1)] := rfl

/-- The RAM-Y-window payload of a record, by its rows (R8, R81). -/
theorem ramYWindowPayload_eq (c : Config) : ramYWindowPayload c =
    [0x00#8, 0x00#8, BitVec.ofNat 8 (c.rows - 1), BitVec.ofNat 8 ((c.rows - 1) / 256)] := by
  have h : ∀ n : Nat, littleEndian (BitVec.ofNat 16 n) = [BitVec.ofNat 8 n, BitVec.ofNat 8 (n / 256)] := by
    intro n
    simp only [littleEndian, lo8, hi8, List.cons.injEq, and_true]
    constructor <;> apply BitVec.eq_of_toNat_eq
    · simp
    · simp [Nat.shiftRight_eq_div_pow]; omega
  simp only [ramYWindowPayload, Config.yend, h]
  rfl

/-- The geometry of R7, field by field. -/
theorem panelGeometry_iff (c : Config) :
    c.panelGeometry = true ↔ c.rows = 212 ∧ c.cols = 104 ∧ c.planeBytes = 2756 := by
  simp [Config.panelGeometry, and_assoc]

/-- A plane of the record's length begins its operation (R126). -/
theorem startPlane_of_length {s : State} {buf : List Byte} (sel : Plane) (h : buf.length = s.cfg.planeBytes) :
    s.startPlane sel buf = s.start .updatePlane (Latches.plane sel buf) := by simp [State.startPlane, h]

/-! ### Instructions and steps -/

/-- How an instruction ends: it runs its operation, it is refused, or its plane has the wrong length. -/
def ExecEnds (i : Instr) (s t : State) : Prop :=
  (∃ op l, operation i = some op ∧
    ((op = .sendCommand ∨ op = .sendCommandData) → s.cfg.opcodes.holds l.b = true) ∧ t = s.start op l) ∨
  (t = s.refuse ∧ (operation i = none ∨ operation i = some .sendCommand ∨ operation i = some .sendCommandData ∨
    (operation i = some .updatePlane ∧ s.cfg.lenPolicy = .refuse))) ∨
  (t = s.rejectLength ∧ operation i = some .updatePlane ∧ s.cfg.lenPolicy = .failFast)

/-- Everything an instruction can do. -/
theorem exec_cases {i : Instr} {s t : State} (h : exec i s = .next t) : ExecEnds i s t := by
  have send : ∀ (op : Operation) (l : Latches), operation i = some op → (op = .sendCommand ∨ op = .sendCommandData) →
      s.startSend op l = t → ExecEnds i s t := by
    intro op l ho hop hs
    unfold State.startSend at hs
    split at hs
    · exact .inl ⟨op, l, ho, fun _ => by assumption, hs.symm⟩
    · refine .inr (.inl ⟨hs.symm, ?_⟩)
      rcases hop with rfl | rfl
      · exact .inr (.inl ho)
      · exact .inr (.inr (.inl ho))
  have raw : ∀ (c : Byte) (opt : Option (List Byte)), operation i = some (operation.rawOperation opt) →
      s.startRaw c opt = t → ExecEnds i s t := by
    intro c opt ho hs
    cases opt with
    | none => exact send .sendCommand _ ho (.inl rfl) hs
    | some P => exact send .sendCommandData _ ho (.inr rfl) hs
  have plane : ∀ sel buf, operation i = some .updatePlane → s.startPlane sel buf = t → ExecEnds i s t := by
    intro sel buf ho hs
    unfold State.startPlane at hs
    split at hs
    · exact .inl ⟨_, _, ho, by simp, hs.symm⟩
    · split at hs
      · exact .inr (.inr ⟨hs.symm, ho, by assumption⟩)
      · exact .inr (.inl ⟨hs.symm, .inr (.inr (.inr ⟨ho, by assumption⟩))⟩)
  have other : ∀ op l, operation i = some op → ¬ (op = .sendCommand ∨ op = .sendCommandData) → s.start op l = t →
      ExecEnds i s t := fun op l ho hn hs => .inl ⟨op, l, ho, fun h => absurd h hn, hs.symm⟩
  cases i with
  | sendCommand c => exact send .sendCommand _ rfl (.inl rfl) (Host.Outcome.next.inj h)
  | sendCommandData c opt => exact send .sendCommandData _ rfl (.inr rfl) (Host.Outcome.next.inj h)
  | sendData P => exact other .sendData _ rfl (by simp) (Host.Outcome.next.inj h)
  | reset => exact other .reset _ rfl (by simp) (Host.Outcome.next.inj h)
  | busyWait => exact other .busyWait _ rfl (by simp) (Host.Outcome.next.inj h)
  | setAddressCounter x y => exact other .setAddressCounter _ rfl (by simp) (Host.Outcome.next.inj h)
  | init => exact other .init _ rfl (by simp) (Host.Outcome.next.inj h)
  | refresh => exact other .refresh _ rfl (by simp) (Host.Outcome.next.inj h)
  | updatePlane sel buf => exact plane _ _ rfl (Host.Outcome.next.inj h)
  | updateBw buf => exact plane _ _ rfl (Host.Outcome.next.inj h)
  | updateRed buf => exact plane _ _ rfl (Host.Outcome.next.inj h)
  | reservedOp rq P => exact .inr (.inl ⟨(Host.Outcome.next.inj h).symm, .inl rfl⟩)
  | _ opt => exact raw _ opt rfl (Host.Outcome.next.inj h)

/-- A step of a block that stands at a primitive runs it. -/
theorem step_run {s : State} {op : Operation} {pos : Nat} (h : s.seq = .run op pos) :
    step s = .next (s.runPrimitive op pos) := by simp [step, h]

/-- A step of a block that stands at the release of a write makes the attempt and fails with that write. -/
theorem step_release {s : State} {op : Operation} {pos : Nat} {e : BusFault} (h : s.seq = .release op pos e) :
    step s = .next (s.runRelease e) := by simp [step, h]

/-- The primitive at a position runs, and control goes where it sends it. -/
theorem runPrimitive_some {s : State} {op : Operation} {pos : Nat} {m : Primitive}
    (h : (s.sequence op)[pos]? = some m) : s.runPrimitive op pos = (m.perform s).follow op pos (m.flow s) := by
  simp [State.runPrimitive, h]

theorem runPrimitive_none {s : State} {op : Operation} {pos : Nat} (h : (s.sequence op)[pos]? = none) :
    s.runPrimitive op pos = s.returnOk op := by simp [State.runPrimitive, h]

/-- Everything a step can do: nothing, run a primitive or a release, refuse a request, or begin one. -/
theorem step_cases {s t : State} (h : step s = .next t) :
    (t = s ∧ s.seq = .idle ∧ s.requests = []) ∨
    (∃ op pos, s.seq = .run op pos ∧ t = s.runPrimitive op pos) ∨
    (∃ op pos e, s.seq = .release op pos e ∧ t = s.runRelease e) ∨
    (∃ r more, s.seq = .idle ∧ s.requests = r :: more ∧
      ((∃ why, decode r = .rejected why ∧ t = (s.accept r more).refuse) ∨
       (∃ i, decode r = .instr i ∧ exec i (s.accept r more) = .next t))) := by
  unfold step at h
  cases hs : s.seq with
  | run op pos => rw [hs] at h; exact .inr (.inl ⟨op, pos, rfl, (Host.Outcome.next.inj h).symm⟩)
  | release op pos e => rw [hs] at h; exact .inr (.inr (.inl ⟨op, pos, e, rfl, (Host.Outcome.next.inj h).symm⟩))
  | idle =>
    rw [hs] at h
    cases hr : s.requests with
    | nil => rw [hr] at h; exact .inl ⟨(Host.Outcome.next.inj h).symm, rfl, rfl⟩
    | cons r more =>
      rw [hr] at h
      simp only at h
      refine .inr (.inr (.inr ⟨r, more, rfl, rfl, ?_⟩))
      cases hd : decode r with
      | instr i => rw [hd] at h; exact .inr ⟨i, rfl, h⟩
      | rejected why => rw [hd] at h; exact .inl ⟨why, rfl, (Host.Outcome.next.inj h).symm⟩

/-! ### What a step of an operation leaves -/

/-- Where control leaves a state `v` of an operation: going on, ended `OK`, or ended by a failure. -/
inductive Ends (op : Operation) (v t : State) : Prop
  | goesOn : t.seq ≠ .idle → t.operating = some op → Emitted v t [] → Ends op v t
  | returned : t = v.returnOk op → Ends op v t
  | failed (f : Failure) : t = v.failureEntry f → Ends op v t

theorem enter_ends (op : Operation) (pos : Nat) (v : State) : Ends op v (v.enter op pos) := by
  cases h : (v.sequence op)[pos]? with
  | none => rw [enter_none h]; exact .returned rfl
  | some m =>
    rw [enter_some h]
    exact .goesOn (by simp) rfl (by simpa using (emitted_arrive m v).trans (emitted_atPosition op pos _))

theorem follow_ends (op : Operation) (pos : Nat) (f : Flow) (v : State) : Ends op v (v.follow op pos f) := by
  cases f with
  | advance => exact enter_ends op _ v
  | leaveWait => exact enter_ends op _ v
  | repeatWait => exact .goesOn (by simp [State.follow]) rfl (emitted_atPosition op _ v)
  | fail f => exact .failed f rfl
  | release e => exact .goesOn (by simp [State.follow]) rfl (emitted_atRelease op pos e v)

/-- What control leaves unchanged, wherever it goes. -/
theorem Ends.frame {op : Operation} {v t : State} (h : Ends op v t) :
    t.cfg = v.cfg ∧ t.requests = v.requests ∧ t.viol = v.viol ∧ t.refd = v.refd ∧ (∀ p, t.pin p = v.pin p) ∧
      (t.seq ≠ .idle → t.lastRsp = v.lastRsp ∧ t.phase = v.phase) := by
  cases h with
  | goesOn hne _ e => exact ⟨e.cfg, e.requests, e.viol, e.refd, e.pin, fun _ => ⟨e.lastRsp, e.phase⟩⟩
  | returned h => subst h; exact ⟨rfl, rfl, rfl, rfl, fun p => by cases p <;> rfl, fun h => absurd rfl h⟩
  | failed f h => subst h; exact ⟨rfl, rfl, rfl, rfl, fun p => by cases p <;> rfl, fun h => absurd rfl h⟩

/-- A step of an operation emits at most one event before its response, neither a request nor a response. -/
theorem operating_step {s t : State} {op : Operation} (ho : s.operating = some op) (h : step s = .next t) :
    ∃ v evs, Emitted s v evs ∧ Ends op v t ∧ evs.length ≤ 1 ∧
      ∀ e ∈ evs, (∀ w P, e ≠ .req w P) ∧ ∀ c n, e ≠ .rsp c n := by
  unfold State.operating at ho
  cases hs : s.seq with
  | idle => rw [hs] at ho; cases ho
  | run op' pos =>
    rw [hs] at ho; cases ho
    rw [step_run hs] at h
    cases hm : (s.sequence op)[pos]? with
    | none =>
      rw [runPrimitive_none hm] at h; cases h
      exact ⟨s, [], Emitted.refl s, .returned rfl, by simp, by simp⟩
    | some m =>
      rw [runPrimitive_some hm] at h; cases h
      exact ⟨_, _, emitted_perform m s, follow_ends _ _ _ _, by simp, by cases m <;> simp [Primitive.event]⟩
  | release op' pos e =>
    rw [hs] at ho; cases ho
    rw [step_release hs] at h; cases h
    exact ⟨_, _, emitted_driveLine .CS .H s, .failed (.bus e) rfl, by simp, by simp⟩

/-- What every step of an operation leaves unchanged. -/
theorem operating_frame {s t : State} {op : Operation} (ho : s.operating = some op) (h : step s = .next t) :
    t.cfg = s.cfg ∧ t.requests = s.requests ∧ t.viol = s.viol ∧ t.refd = s.refd ∧
      (t.seq ≠ .idle → t.lastRsp = s.lastRsp ∧ t.phase = s.phase) := by
  obtain ⟨v, evs, r, he, -⟩ := operating_step ho h
  obtain ⟨a, b, c, d, -, f⟩ := he.frame
  exact ⟨a.trans r.cfg, b.trans r.requests, c.trans r.viol, d.trans r.refd,
    fun h => ⟨(f h).1.trans r.lastRsp, (f h).2.trans r.phase⟩⟩

/-- Everything a step at a primitive does, by the primitive and its event. -/
theorem step_primitive {s t : State} {op : Operation} {pos : Nat} {m : Primitive} (hs : s.seq = .run op pos)
    (hm : (s.sequence op)[pos]? = some m) (h : step s = .next t) :
    (m.straight = true ∧ m.event s = m.okEvent ∧ t = (m.perform s).enter op (pos + 1)) ∨
    (m = .pinRead ∧ m.event s = .sample (.ok .H) ∧ t = (m.perform s).atPosition op (pos + 1) ∧
      (s.sequence op)[pos + 1]? = some (.pollSleep s.cfg.tPollMs)) ∨
    (m = .pinRead ∧ m.event s = .sample (.ok .L) ∧ t = (m.perform s).enter op (pos + 2) ∧
      (s.sequence op)[pos + 1]? = some (.pollSleep s.cfg.tPollMs)) ∨
    (∃ k ms, m = .pollSleep ms ∧ m.event s = .sleep ms ∧ pos = k + 1 ∧ (s.sequence op)[k]? = some .pinRead ∧
      t = (m.perform s).atPosition op k) ∨
    (∃ f, FailsWith s.cfg m (m.event s) f ∧ t = (m.perform s).failureEntry f) ∨
    (∃ P x, m = .busWrite P ∧ m.event s = .write P (.err x) ∧ s.cfg.csReleaseOnFail = true ∧
      t = (m.perform s).atRelease op pos x) := by
  rw [step_run hs, runPrimitive_some hm] at h
  have h := (Host.Outcome.next.inj h).symm
  have hw := sequence_waitsPaired s.cfg s.latches op
  have r := emitted_perform m s
  rcases flow_cases m s with ⟨ha, hf, he⟩ | ⟨rfl, hf, he⟩ | ⟨rfl, hf, he⟩ | ⟨n, rfl, hf, he⟩ | ⟨f, hf, he⟩ |
    ⟨P, x, rfl, hf, he, hc⟩ <;> rw [hf] at h
  · exact .inl ⟨ha, he, h⟩
  · refine .inr (.inl ⟨rfl, he, ?_, hw.after_pinRead hm⟩)
    rw [h, State.follow, enter_some (by rw [r.sequence]; exact hw.after_pinRead hm)]; rfl
  · exact .inr (.inr (.inl ⟨rfl, he, h, hw.after_pinRead hm⟩))
  · obtain ⟨k, rfl, hk⟩ := hw.before_pollSleep hm
    exact .inr (.inr (.inr (.inl ⟨k, n, rfl, he, rfl, hk, h⟩)))
  · exact .inr (.inr (.inr (.inr (.inl ⟨f, he, h⟩))))
  · exact .inr (.inr (.inr (.inr (.inr ⟨P, x, rfl, he, hc, h⟩))))

/-! ### The levels a sequence has asked for -/

/-- One primitive further. -/
theorem drivenBefore_succ (p : OutPin) {ms : List Primitive} {pos : Nat} {m : Primitive} (h : ms[pos]? = some m) :
    drivenBefore p ms (pos + 1) = m.drives p (drivenBefore p ms pos) := by
  unfold drivenBefore
  rw [List.take_add_one, List.foldl_append, h]; rfl

/-- A primitive whose answer was `ok` leaves its line at the level it asked for, and every other line alone. -/
theorem perform_pin_drives {s : State} {m : Primitive} {p : OutPin} {o : Option Level}
    (he : m.event s = m.okEvent ∨ m = .pinRead ∨ ∃ n, m = .pollSleep n)
    (h : ∀ lvl, o = some lvl → s.pin p = knownLevel lvl) :
    ∀ lvl, m.drives p o = some lvl → (m.perform s).pin p = knownLevel lvl := by
  intro lvl hl
  rw [(emitted_perform m s).pin]
  cases m with
  | pinSet q l =>
    have he : s.pinAnswer 0 = .ok := by
      rcases he with he | he | ⟨n, he⟩
      · simpa [Primitive.event, Primitive.okEvent] using he
      · cases he
      · cases he
    simp only [Primitive.drives] at hl
    simp only [Primitive.event, lineAfter_cons, lineAfter_nil, Event.record, he, recordedLevel]
    split at hl
    · rw [if_pos ‹_›]; cases hl; rfl
    · rw [if_neg ‹_›]; exact h lvl hl
  | _ => exact h lvl hl

end Sys2Proof.Machine
end

