-- ==== Sys2Proof/Laws/Runs.lean ====
section
/-! SUPPORT. Runs of several steps: primitives answered `ok`, BusyWait's loop, the end of an operation, and every
state that the steps of one operation can lead to. -/

namespace Sys2Proof.Machine

/-! ### Counting answers -/

/-- The pin answers a primitive takes. -/
def Primitive.pinSets : Primitive → Nat
  | .pinSet _ _ => 1
  | .busWrite _ => 0
  | .sleep _ => 0
  | .pinRead => 0
  | .pollSleep _ => 0

/-- The write answers a primitive takes. -/
def Primitive.writes : Primitive → Nat
  | .pinSet _ _ => 0
  | .busWrite _ => 1
  | .sleep _ => 0
  | .pinRead => 0
  | .pollSleep _ => 0

/-- The samples a primitive takes. -/
def Primitive.samples : Primitive → Nat
  | .pinSet _ _ => 0
  | .busWrite _ => 0
  | .sleep _ => 0
  | .pinRead => 1
  | .pollSleep _ => 0

/-- The pin sets of a sequence. -/
def pinSetsOf (ms : List Primitive) : Nat := (ms.map Primitive.pinSets).sum

/-- The bus writes of a sequence. -/
def writesOf (ms : List Primitive) : Nat := (ms.map Primitive.writes).sum

/-- The events of a sequence that completes. -/
def okEventsOf (ms : List Primitive) : List Event := ms.map Primitive.okEvent

@[simp] theorem pinSetsOf_nil : pinSetsOf [] = 0 := rfl
@[simp] theorem writesOf_nil : writesOf [] = 0 := rfl
@[simp] theorem okEventsOf_nil : okEventsOf [] = [] := rfl
@[simp] theorem pinSetsOf_cons (m : Primitive) (ms : List Primitive) :
    pinSetsOf (m :: ms) = m.pinSets + pinSetsOf ms := by simp [pinSetsOf]
@[simp] theorem writesOf_cons (m : Primitive) (ms : List Primitive) :
    writesOf (m :: ms) = m.writes + writesOf ms := by simp [writesOf]
@[simp] theorem okEventsOf_cons (m : Primitive) (ms : List Primitive) :
    okEventsOf (m :: ms) = m.okEvent :: okEventsOf ms := rfl
@[simp] theorem pinSetsOf_append (a b : List Primitive) : pinSetsOf (a ++ b) = pinSetsOf a + pinSetsOf b := by
  simp [pinSetsOf]
@[simp] theorem writesOf_append (a b : List Primitive) : writesOf (a ++ b) = writesOf a + writesOf b := by
  simp [writesOf]
@[simp] theorem okEventsOf_append (a b : List Primitive) : okEventsOf (a ++ b) = okEventsOf a ++ okEventsOf b := by
  simp [okEventsOf]

/-- From `s` to `t` the events `evs` have been emitted, and `np` pin answers, `nw` write answers and `nb` samples have
been taken; the rest but `SEQ` and `POLLS` is as it was. -/
structure Ran (s t : State) (evs : List Event) (np nw nb : Nat) : Prop extends Emitted s t evs where
  pinAnswer : ∀ k, t.pinAnswer k = s.pinAnswer (k + np)
  busAnswer : ∀ k, t.busAnswer k = s.busAnswer (k + nw)
  busyAnswer : ∀ k, t.busyAnswer k = s.busyAnswer (k + nb)
  pinIn : np = 0 → t.pinIn = s.pinIn
  busIn : nw = 0 → t.busIn = s.busIn
  busyIn : nb = 0 → t.busyIn = s.busyIn

theorem Ran.refl (s : State) : Ran s s [] 0 0 0 :=
  ⟨Emitted.refl s, fun _ => rfl, fun _ => rfl, fun _ => rfl, fun _ => rfl, fun _ => rfl, fun _ => rfl⟩

theorem Ran.trans {a b c : State} {e1 e2 : List Event} {p1 p2 w1 w2 b1 b2 : Nat} (h1 : Ran a b e1 p1 w1 b1)
    (h2 : Ran b c e2 p2 w2 b2) : Ran a c (e1 ++ e2) (p1 + p2) (w1 + w2) (b1 + b2) where
  toEmitted := h1.toEmitted.trans h2.toEmitted
  pinAnswer k := by rw [h2.pinAnswer, h1.pinAnswer]; congr 1; omega
  busAnswer k := by rw [h2.busAnswer, h1.busAnswer]; congr 1; omega
  busyAnswer k := by rw [h2.busyAnswer, h1.busyAnswer]; congr 1; omega
  pinIn h := (h2.pinIn (by omega)).trans (h1.pinIn (by omega))
  busIn h := (h2.busIn (by omega)).trans (h1.busIn (by omega))
  busyIn h := (h2.busyIn (by omega)).trans (h1.busyIn (by omega))

/-- Everything a primitive takes and emits. -/
theorem ran_perform (m : Primitive) (s : State) :
    Ran s (m.perform s) [m.event s] m.pinSets m.writes m.samples := by
  refine ⟨emitted_perform m s, ?_, ?_, ?_, ?_, ?_, ?_⟩
  all_goals
    cases m with
    | pinRead =>
      cases h : s.busyAnswer 0 <;>
        simp [Primitive.perform, State.readBusy, h, State.sampleBusy, State.countPoll, Primitive.pinSets,
          Primitive.writes, Primitive.samples]
    | _ => simp [Primitive.perform, State.writeBus, Primitive.pinSets, Primitive.writes, Primitive.samples]

theorem ran_setPolls (n : Nat) (s : State) : Ran s (s.setPolls n) [] 0 0 0 :=
  ⟨emitted_setPolls n s, fun _ => rfl, fun _ => rfl, fun _ => rfl, fun _ => rfl, fun _ => rfl, fun _ => rfl⟩

theorem ran_atPosition (op : Operation) (pos : Nat) (s : State) : Ran s (s.atPosition op pos) [] 0 0 0 :=
  ⟨emitted_atPosition op pos s, fun _ => rfl, fun _ => rfl, fun _ => rfl, fun _ => rfl, fun _ => rfl, fun _ => rfl⟩

/-- A primitive other than a sample leaves `POLLS` alone. -/
theorem perform_polls {m : Primitive} (h : m ≠ .pinRead) (s : State) : (m.perform s).polls = s.polls := by
  cases m <;> first | exact absurd rfl h | simp [Primitive.perform, State.writeBus]

/-! ### Steps of a run -/

/-- A run of `a + b` steps is a run of `a` steps and then of `b`, where the first ends in a next state. -/
theorem run_add (M : Host.Core) : ∀ (a b : Nat) (s t : M.State), M.run a s = .next t →
    M.run (a + b) s = M.run b t := by
  intro a
  induction a with
  | zero => intro b s t h; simp [Host.Core.run] at h; simp [h]
  | succ a ih =>
    intro b s t h
    rw [Nat.succ_add, Host.Core.run]
    rw [Host.Core.run] at h
    cases hs : M.step s with
    | next s' => rw [hs] at h; exact ih b s' t h
    | fault r => rw [hs] at h; cases h
    | refused r => rw [hs] at h; cases h

/-- A first step that ends in a next state, and the rest of the run. -/
theorem run_succ {k : Nat} {s t : State} (h : step s = .next t) :
    Host.Core.run Sys2Proof.core (k + 1) s = Host.Core.run Sys2Proof.core k t := by
  have h' : Sys2Proof.core.step s = .next t := h
  simp only [Host.Core.run, h']

/-- A run of one step. -/
theorem run_one {s t : State} (h : step s = .next t) : Host.Core.run Sys2Proof.core 1 s = .next t := run_succ h

/-- A step from a position whose primitive is known. -/
theorem step_atPosition {v : State} {op : Operation} {pos : Nat} {m : Primitive}
    (h : (v.sequence op)[pos]? = some m) :
    step (v.atPosition op pos) =
      .next ((m.perform (v.atPosition op pos)).follow op pos (m.flow (v.atPosition op pos))) := by
  rw [step_run rfl, runPrimitive_some (s := v.atPosition op pos) h]

/-- A straight primitive is answered `ok` where its answers are. -/
theorem straight_ok {m : Primitive} (hm : m.straight = true) {s : State} (hp : s.pinsOk m.pinSets)
    (hw : s.busOk m.writes) : m.flow s = .advance ∧ m.event s = m.okEvent := by
  cases m with
  | pinSet p lvl =>
    have h0 : s.pinAnswer 0 = .ok := hp 0 (by simp [Primitive.pinSets])
    simp [Primitive.flow, Primitive.event, Primitive.okEvent, h0]
  | busWrite P =>
    have h0 : s.busAnswer 0 = .ok := hw 0 (by simp [Primitive.writes])
    simp [Primitive.flow, Primitive.event, Primitive.okEvent, h0]
  | sleep ms => exact ⟨rfl, rfl⟩
  | pinRead => cases hm
  | pollSleep ms => cases hm

/-- Straight primitives answered `ok` take a step each; the block then arrives at what follows them. -/
theorem run_straight (op : Operation) : ∀ (ms : List Primitive), (∀ m ∈ ms, m.straight = true) →
    ∀ (pre rest : List Primitive) (v : State), v.sequence op = pre ++ ms ++ rest → v.pinsOk (pinSetsOf ms) →
      v.busOk (writesOf ms) →
    ∃ u, Host.Core.run Sys2Proof.core ms.length (v.enter op pre.length) = .next (u.enter op (pre.length + ms.length)) ∧
      Ran v u (okEventsOf ms) (pinSetsOf ms) (writesOf ms) 0 ∧ u.polls = v.polls := by
  intro ms
  induction ms with
  | nil => intro _ pre rest v _ _ _; exact ⟨v, rfl, Ran.refl v, rfl⟩
  | cons m ms ih =>
    intro hall pre rest v hs hp hw
    have hm : m.straight = true := hall m (by simp)
    have hget : (v.sequence op)[pre.length]? = some m := by rw [hs]; simp
    have harr : m.arrive v = v := by cases m <;> first | rfl | cases hm
    have hne : m ≠ .pinRead := by rintro rfl; cases hm
    have hp1 : (v.atPosition op pre.length).pinsOk m.pinSets := fun k hk => by
      simpa using hp k (by simp; omega)
    have hw1 : (v.atPosition op pre.length).busOk m.writes := fun k hk => by simpa using hw k (by simp; omega)
    obtain ⟨hf, he⟩ := straight_ok hm hp1 hw1
    have hr := (ran_atPosition op pre.length v).trans (ran_perform m (v.atPosition op pre.length))
    have hsam : m.samples = 0 := by cases m <;> first | rfl | cases hm
    rw [he, hsam] at hr
    simp only [List.nil_append, Nat.zero_add] at hr
    obtain ⟨u, h2, r2, p2⟩ := ih (fun x hx => hall x (by simp [hx])) (pre ++ [m]) rest
      (m.perform (v.atPosition op pre.length)) (by rw [hr.sequence, hs]; simp)
      (fun k hk => by rw [hr.pinAnswer]; exact hp _ (by simp; omega))
      (fun k hk => by rw [hr.busAnswer]; exact hw _ (by simp; omega))
    refine ⟨u, ?_, by simpa using hr.trans r2, by rw [p2, perform_polls hne]; rfl⟩
    rw [enter_some hget, harr, List.length_cons, run_succ (step_atPosition hget), hf]
    simpa [State.follow, Nat.add_assoc, Nat.add_comm, Nat.add_left_comm] using h2

/-! ### BusyWait -/

@[simp] theorem pollTurns_zero (ms : Nat) : pollTurns 0 ms = [] := rfl
theorem pollTurns_succ (k ms : Nat) : pollTurns (k + 1) ms = pollTurns 1 ms ++ pollTurns k ms := by
  simp [pollTurns, List.replicate_succ]
@[simp] theorem pollTurns_length (k ms : Nat) : (pollTurns k ms).length = 2 * k := by
  simp [pollTurns, Nat.mul_comm]

/-- Turns of BusyWait's loop drive no line. -/
@[simp] theorem lineAfter_pollTurns (p : OutPin) (v : PinLevel) (k ms : Nat) : lineAfter p v (pollTurns k ms) = v := by
  induction k with
  | zero => simp
  | succ k ih => rw [pollTurns_succ, lineAfter_append]; simpa [pollTurns, Event.record] using ih

/-- What the sample does to the counts, by its answer. -/
theorem readBusy_polls {s : State} {lvl : Level} (h : s.busyAnswer 0 = .ok lvl) : s.readBusy.polls = s.polls + 1 := by
  rw [State.readBusy_ok s h]; rfl

/-- A sample of `H` short of the bound goes on to the poll sleep; at the bound it times out. -/
theorem pinRead_flow_high {s : State} (h : s.busyAnswer 0 = .ok .H) :
    (s.withinBound (s.polls + 1) → Primitive.flow s .pinRead = .advance) ∧
    (¬ s.withinBound (s.polls + 1) → Primitive.flow s .pinRead = .fail .timeout) := by
  have hb := State.readBusy_boundReached s h
  constructor
  · intro hw
    have : s.readBusy.pollBoundReached = false := by
      rw [← Bool.not_eq_true, hb]
      rintro ⟨n, hn, hle⟩
      have := hw n (by simp [hn])
      omega
    simp [Primitive.flow, h, this]
  · intro hw
    have : s.readBusy.pollBoundReached = true := by
      rw [hb]
      by_contra hc
      refine hw fun n hn => ?_
      by_contra hlt
      exact hc ⟨n, hn, by omega⟩
    simp [Primitive.flow, h, this]

/-- One turn that samples `H` short of the bound takes two steps, and the block stands before the next sample. -/
theorem run_turn {w : State} {op : Operation} {pos ms : Nat} (h0 : (w.sequence op)[pos]? = some .pinRead)
    (h1 : (w.sequence op)[pos + 1]? = some (.pollSleep ms)) (h : w.busyAnswer 0 = .ok .H)
    (hb : w.withinBound (w.polls + 1)) :
    ∃ w', Host.Core.run Sys2Proof.core 2 (w.atPosition op pos) = .next (w'.atPosition op pos) ∧
      Ran w w' (pollTurns 1 ms) 0 0 1 ∧ w'.polls = w.polls + 1 := by
  have ha : (w.atPosition op pos).busyAnswer 0 = .ok .H := h
  have hf := (pinRead_flow_high ha).1 hb
  have r1 := (ran_atPosition op pos w).trans (ran_perform .pinRead (w.atPosition op pos))
  have he : Primitive.event (w.atPosition op pos) .pinRead = .sample (.ok .H) := by simp [Primitive.event, ha]
  rw [he] at r1
  have h1' : ((Primitive.perform (w.atPosition op pos) .pinRead).sequence op)[pos + 1]? = some (.pollSleep ms) := by
    rw [r1.sequence]; exact h1
  have s1 : step (w.atPosition op pos) =
      .next ((Primitive.perform (w.atPosition op pos) .pinRead).atPosition op (pos + 1)) := by
    rw [step_atPosition h0, hf, State.follow, enter_some h1']; rfl
  have r2 := (ran_atPosition op (pos + 1) _).trans (ran_perform (.pollSleep ms)
    ((Primitive.perform (w.atPosition op pos) .pinRead).atPosition op (pos + 1)))
  refine ⟨_, (run_succ s1).trans (run_one (step_atPosition h1')), ?_, ?_⟩
  · simpa [pollTurns, Primitive.event, Primitive.pinSets, Primitive.writes, Primitive.samples] using r1.trans r2
  · rw [perform_polls (by simp)]
    exact readBusy_polls ha

/-- `k` turns that sample `H` short of the bound take two steps each. -/
theorem run_turns {op : Operation} {pos ms : Nat} : ∀ (k : Nat) (w : State),
    (w.sequence op)[pos]? = some .pinRead → (w.sequence op)[pos + 1]? = some (.pollSleep ms) →
    (∀ j < k, w.busyAnswer j = .ok .H) → w.withinBound (w.polls + k) →
    ∃ w', Host.Core.run Sys2Proof.core (2 * k) (w.atPosition op pos) = .next (w'.atPosition op pos) ∧
      Ran w w' (pollTurns k ms) 0 0 k ∧ w'.polls = w.polls + k := by
  intro k
  induction k with
  | zero => intro w _ _ _ _; exact ⟨w, rfl, Ran.refl w, rfl⟩
  | succ k ih =>
    intro w h0 h1 hh hb
    obtain ⟨w1, g1, r1, p1⟩ := run_turn h0 h1 (hh 0 (by omega)) (fun n hn => by have := hb n hn; omega)
    obtain ⟨w2, g2, r2, p2⟩ := ih w1 (by rw [r1.sequence]; exact h0) (by rw [r1.sequence]; exact h1)
      (fun j hj => by rw [r1.busyAnswer]; exact hh _ (by omega))
      (fun n hn => by rw [p1]; have := hb n (by simpa [r1.cfg] using hn); omega)
    refine ⟨w2, ?_, ?_, by rw [p2, p1]; omega⟩
    · rw [show 2 * (k + 1) = 2 + 2 * k by omega, run_add Sys2Proof.core 2 (2 * k) _ _ g1]
      exact g2
    · rw [pollTurns_succ, show k + 1 = 1 + k by omega]
      exact r1.trans r2

/-- Arriving at a wait: the count is cleared. -/
theorem enter_wait {v : State} {op : Operation} {pos : Nat} (h : (v.sequence op)[pos]? = some .pinRead) :
    v.enter op pos = (v.setPolls 0).atPosition op pos := enter_some h

/-- A whole wait: `k` samples of `H`, then one of `L`. -/
theorem run_wait {v : State} {op : Operation} {pos ms : Nat} (k : Nat) (h0 : (v.sequence op)[pos]? = some .pinRead)
    (h1 : (v.sequence op)[pos + 1]? = some (.pollSleep ms)) (hh : v.busyThenReady 0 k) (hb : v.withinBound k) :
    ∃ u, Host.Core.run Sys2Proof.core (2 * k + 1) (v.enter op pos) = .next (u.enter op (pos + 2)) ∧
      Ran v u (pollTurns k ms ++ [.sample (.ok .L)]) 0 0 (k + 1) ∧ u.polls = k + 1 := by
  have r0 := ran_setPolls 0 v
  obtain ⟨w, g, r, p⟩ := run_turns (op := op) (pos := pos) (ms := ms) k (v.setPolls 0) h0 h1
    (fun j hj => by simpa using hh.1 j hj) (fun n hn => by simpa using hb n hn)
  have h0' : (w.sequence op)[pos]? = some .pinRead := by rw [r.sequence]; exact h0
  have hl : (w.atPosition op pos).busyAnswer 0 = .ok .L := by
    have := hh.2
    simpa [r.busyAnswer] using this
  have rl := (ran_atPosition op pos w).trans (ran_perform .pinRead (w.atPosition op pos))
  have he : Primitive.event (w.atPosition op pos) .pinRead = .sample (.ok .L) := by simp [Primitive.event, hl]
  have hf : Primitive.flow (w.atPosition op pos) .pinRead = .leaveWait := by simp [Primitive.flow, hl]
  rw [he] at rl
  refine ⟨Primitive.perform (w.atPosition op pos) .pinRead, ?_, ?_, ?_⟩
  · rw [enter_wait h0, run_add Sys2Proof.core (2 * k) 1 _ _ g]
    exact run_one (by rw [step_atPosition h0', hf]; rfl)
  · simpa [Primitive.pinSets, Primitive.writes, Primitive.samples] using (r0.trans r).trans rl
  · have : (Primitive.perform (w.atPosition op pos) .pinRead).polls = w.polls + 1 := readBusy_polls hl
    rw [this, p]; simp

/-! ### Frames, and the ends of operations -/

/-- A command frame's events and counts. -/
theorem cmdFrame_straight (c : Byte) : okEventsOf (cmdFrame c) = cmdFrameOk c ∧ pinSetsOf (cmdFrame c) = 3 ∧
    writesOf (cmdFrame c) = 1 ∧ ∀ m ∈ cmdFrame c, m.straight = true := by
  simp [cmdFrame, cmdFrameOk, Primitive.okEvent, Primitive.pinSets, Primitive.writes, Primitive.straight]

/-- A data frame's events and counts. -/
theorem dataFrame_straight (P : List Byte) : okEventsOf (dataFrame P) = dataFrameOk P ∧ pinSetsOf (dataFrame P) = 3 ∧
    writesOf (dataFrame P) = 1 ∧ ∀ m ∈ dataFrame P, m.straight = true := by
  simp [dataFrame, dataFrameOk, Primitive.okEvent, Primitive.pinSets, Primitive.writes, Primitive.straight]

/-- The events and pins of an operation that ends `OK` after `evs`. -/
theorem endsWith_returnOk {op : Operation} {l : Latches} {s u : State} {evs : List Event}
    (r : Emitted (begun op l s) u evs) :
    s.EndsWith (u.returnOk op) evs .ok none (op.phaseAfter s.phase) (s.viol || !op.validIn s.phase) s.refd ∧
      ∀ p, (u.returnOk op).pin p = lineAfter p (s.pin p) evs := by
  rw [begun_eq] at r
  have hh := r.history; have hc := r.cfg; have hp := r.phase; have hv := r.viol; have hr := r.refd
  have hq := r.requests
  refine ⟨?_, fun p => ?_⟩
  · constructor <;> simp_all [State.returnOk, State.endOperation]
  · have := r.pin p
    simpa [State.returnOk, State.endOperation, State.pin] using this

/-- The events and pins of an operation that fails after `evs`, the failing primitive's event among them. -/
theorem endsWith_failureEntry {op : Operation} {l : Latches} {s u : State} {evs : List Event} (f : Failure)
    (r : Emitted (begun op l s) u evs) :
    s.EndsWith (u.failureEntry f) evs f.code f.native .FAULTED (s.viol || !op.validIn s.phase) s.refd ∧
      ∀ p, (u.failureEntry f).pin p = lineAfter p (s.pin p) evs := by
  rw [begun_eq] at r
  have hh := r.history; have hc := r.cfg; have hv := r.viol; have hr := r.refd; have hq := r.requests
  refine ⟨?_, fun p => ?_⟩
  · constructor <;> simp_all [State.failureEntry, State.endOperation]
  · have := r.pin p
    simpa [State.failureEntry, State.endOperation, State.pin] using this

/-- A refused request: the response and `REFD`, no other event. -/
theorem endsWith_refuse (s : State) : s.EndsWith s.refuse [] .refused none s.phase s.viol true := by
  constructor <;> simp [State.refuse]

/-- A plane of the wrong length under `FAIL_FAST`: the response, no other event. -/
theorem endsWith_rejectLength (s : State) :
    s.EndsWith s.rejectLength [] .lengthMismatch none s.phase s.viol s.refd := by
  constructor <;> simp [State.rejectLength, State.endOperation]

/-- The frames of a command with an optional payload. -/
theorem cmdDataFrame_straight (c : Byte) (opt : Option (List Byte)) :
    okEventsOf (cmdDataFrame c opt) = cmdDataFrameOk c opt ∧
      pinSetsOf (cmdDataFrame c opt) = 3 + (if opt.isSome then 3 else 0) ∧
      writesOf (cmdDataFrame c opt) = 1 + (if opt.isSome then 1 else 0) ∧
      ∀ m ∈ cmdDataFrame c opt, m.straight = true := by
  cases opt <;> simp [cmdDataFrame, cmdDataFrameOk, cmdFrame, dataFrame, cmdFrameOk, dataFrameOk, Primitive.okEvent,
    Primitive.pinSets, Primitive.writes, Primitive.straight]

/-- An operation that only drives, writes and sleeps, with every answer `ok`: one step a primitive, to `OK`. -/
theorem completes_straight (op : Operation) (l : Latches) (s : State) (n : Nat)
    (hst : ∀ m ∈ op.primitives s.cfg l, m.straight = true) (hn : (op.primitives s.cfg l).length = n)
    (hp : s.pinsOk (pinSetsOf (op.primitives s.cfg l))) (hw : s.busOk (writesOf (op.primitives s.cfg l))) :
    ∃ t : State, Host.Core.run Sys2Proof.core n (s.start op l) = .next t ∧
      s.EndsWith t (okEventsOf (op.primitives s.cfg l)) .ok none (op.phaseAfter s.phase)
        (s.viol || !op.validIn s.phase) s.refd ∧
      ∀ p, t.pin p = lineAfter p (s.pin p) (okEventsOf (op.primitives s.cfg l)) := by
  obtain ⟨u, h, r, -⟩ := run_straight op (op.primitives s.cfg l) hst [] [] (begun op l s) (by simp) hp hw
  refine ⟨u.returnOk op, ?_, endsWith_returnOk r.toEmitted⟩
  subst hn
  rw [enter_none (s := u) (by rw [r.sequence]; simp)] at h
  exact h

/-! ### Every state of an operation -/

/-- The way from the start of a sequence to a position: the events so far, none of which failed. -/
inductive Path (ms : List Primitive) : Nat → List Event → Prop
  | start : Path ms 0 []
  | straight {pos : Nat} {evs : List Event} {m : Primitive} : Path ms pos evs → ms[pos]? = some m →
      m.straight = true → Path ms (pos + 1) (evs ++ [m.okEvent])
  | high {pos : Nat} {evs : List Event} : Path ms pos evs → ms[pos]? = some .pinRead →
      Path ms (pos + 1) (evs ++ [.sample (.ok .H)])
  | low {pos : Nat} {evs : List Event} : Path ms pos evs → ms[pos]? = some .pinRead →
      Path ms (pos + 2) (evs ++ [.sample (.ok .L)])
  | again {pos n : Nat} {evs : List Event} : Path ms (pos + 1) evs → ms[pos + 1]? = some (.pollSleep n) →
      Path ms pos (evs ++ [.sleep n])

/-- The states that an operation begun in `s` with the latches `l` leads to: at a primitive, at a release, ended
`OK` after its last primitive, or ended by a failure. -/
inductive Stage (op : Operation) (l : Latches) (s : State) : State → Prop
  | running {t : State} {pos : Nat} {evs : List Event} {m : Primitive} : t.seq = .run op pos →
      Emitted (begun op l s) t evs → Path (op.primitives s.cfg l) pos evs →
      (op.primitives s.cfg l)[pos]? = some m → Stage op l s t
  | releasing {t : State} {pos : Nat} {evs : List Event} {P : List Byte} {e : BusFault} : t.seq = .release op pos e →
      Emitted (begun op l s) t (evs ++ [.write P (.err e)]) → Path (op.primitives s.cfg l) pos evs →
      (op.primitives s.cfg l)[pos]? = some (.busWrite P) → s.cfg.csReleaseOnFail = true → Stage op l s t
  | returned {u : State} {evs : List Event} : Emitted (begun op l s) u evs →
      Path (op.primitives s.cfg l) (op.primitives s.cfg l).length evs → Stage op l s (u.returnOk op)
  | failed {u : State} {pos : Nat} {evs : List Event} {m : Primitive} {e : Event} {f : Failure} :
      Emitted (begun op l s) u (evs ++ [e]) → Path (op.primitives s.cfg l) pos evs →
      (op.primitives s.cfg l)[pos]? = some m → FailsWith s.cfg m e f → Stage op l s (u.failureEntry f)
  | released {u : State} {pos : Nat} {evs : List Event} {P : List Byte} {e : BusFault} {a : PinAnswer} :
      Emitted (begun op l s) u (evs ++ [.write P (.err e), .set .CS .H a]) → Path (op.primitives s.cfg l) pos evs →
      (op.primitives s.cfg l)[pos]? = some (.busWrite P) → s.cfg.csReleaseOnFail = true →
      Stage op l s (u.failureEntry (.bus e))

/-- Arriving at a position reached with the events `evs`: the operation stands there, or has ended. -/
theorem stage_enter {op : Operation} {l : Latches} {s v : State} {pos : Nat} {evs : List Event}
    (r : Emitted (begun op l s) v evs) (hp : Path (op.primitives s.cfg l) pos evs)
    (hle : pos ≤ (op.primitives s.cfg l).length) : Stage op l s (v.enter op pos) := by
  have hseq : v.sequence op = op.primitives s.cfg l := r.sequence op
  cases hm : (op.primitives s.cfg l)[pos]? with
  | some m =>
    rw [enter_some (by rw [hseq]; exact hm)]
    refine .running rfl ?_ hp hm
    simpa using (r.trans (emitted_arrive m v)).trans (emitted_atPosition op pos _)
  | none =>
    rw [enter_none (by rw [hseq]; exact hm)]
    have : pos = (op.primitives s.cfg l).length := by
      have := List.getElem?_eq_none_iff.mp hm; omega
    subst this
    exact .returned r hp

/-- Every step of an operation that has not answered leads to one of its stages. -/
theorem Stage.step {op : Operation} {l : Latches} {s u t : State} (h : Stage op l s u) (hne : u.seq ≠ .idle)
    (hst : step u = .next t) : Stage op l s t := by
  cases h with
  | @running _ pos evs m hseq r hp hm =>
    have hs : (u.sequence op)[pos]? = some m := by rw [r.sequence]; exact hm
    have hcfg : u.cfg = s.cfg := r.cfg
    have rm := r.trans (emitted_perform m u)
    have hlt : pos < (op.primitives s.cfg l).length := (List.getElem?_eq_some_iff.mp hm).1
    have ht : t = (m.perform u).follow op pos (m.flow u) := by
      rw [step_run hseq, runPrimitive_some hs] at hst
      exact (Host.Outcome.next.inj hst).symm
    subst ht
    have hw := sequence_waitsPaired s.cfg l op
    rcases flow_cases m u with ⟨ha, hf, he⟩ | ⟨rfl, hf, he⟩ | ⟨rfl, hf, he⟩ | ⟨n, rfl, hf, he⟩ | ⟨f, hf, he⟩ |
      ⟨P, x, rfl, hf, he, hc⟩
    · rw [hf]; rw [he] at rm
      exact stage_enter rm (.straight hp hm ha) hlt
    · rw [hf]; rw [he] at rm
      exact stage_enter rm (.high hp hm) hlt
    · rw [hf]; rw [he] at rm
      have := (List.getElem?_eq_some_iff.mp (hw.after_pinRead hm)).1
      exact stage_enter rm (.low hp hm) (by omega)
    · rw [hf]; rw [he] at rm
      obtain ⟨k, rfl, hk⟩ := hw.before_pollSleep hm
      exact .running rfl (List.append_nil (evs ++ _) ▸ rm.trans (emitted_atPosition op k _)) (.again hp hm) hk
    · rw [hf]
      rw [hcfg] at he
      exact .failed rm hp hm he
    · rw [hf]; rw [he] at rm
      exact .releasing rfl (List.append_nil (evs ++ _) ▸ rm.trans (emitted_atRelease op pos x _)) hp hm (hcfg ▸ hc)
  | @releasing _ pos evs P e hseq r hp hm hc =>
    rw [step_release hseq] at hst
    rw [← Host.Outcome.next.inj hst]
    have := r.trans (emitted_driveLine .CS .H u)
    exact .released (by simpa using this) hp hm hc
  | returned => exact absurd rfl hne
  | failed => exact absurd rfl hne
  | released => exact absurd rfl hne

/-- An operation's start is its first stage. -/
theorem stage_start (op : Operation) (l : Latches) (s : State) : Stage op l s (s.start op l) :=
  stage_enter (Emitted.refl _) .start (Nat.zero_le _)

/-- Everything the steps of one operation lead to. -/
theorem Stage.goesOnTo {op : Operation} {l : Latches} {s u t : State} (h : Stage op l s u) (g : u.GoesOnTo t) :
    Stage op l s t := by
  induction g with
  | here => exact h
  | step _ hne hst ih => exact ih.step hne hst

/-- No event on the way failed. -/
theorem Path.no_failure {ms : List Primitive} {pos : Nat} {evs : List Event} (h : Path ms pos evs) :
    ∀ e ∈ evs, e.failed = false := by
  induction h with
  | start => simp
  | @straight _ _ m _ _ _ ih => cases m <;> simpa [or_imp, forall_and, Primitive.okEvent, Event.failed] using ih
  | _ => simpa [or_imp, forall_and, Event.failed] using ‹∀ e ∈ _, Event.failed e = false›

/-- A first step of an operation, and the steps after it. -/
theorem State.GoesOnTo.head {u v t : State} (hne : u.seq ≠ .idle) (hst : Sys2Proof.Machine.step u = .next v)
    (g : v.GoesOnTo t) : u.GoesOnTo t := by
  induction g with
  | here => exact .step .here hne hst
  | step _ hn hs ih => exact .step ih hn hs

/-- A block that has answered goes nowhere within its operation. -/
theorem goesOnTo_idle {u t : State} (h : u.seq = .idle) (g : u.GoesOnTo t) : t = u := by
  induction g with
  | here => rfl
  | step _ hne _ ih => exact absurd (ih ▸ h) hne

end Sys2Proof.Machine
end

