-- ==== Sys2Proof/Tests/Slice0.lean ====
section
/-! SUPPORT. The model's own tests. Expected values are hand-transcribed from the vectors V-… of
spec/95_test_vectors.md or written out from R64, R68 and R86. The command bytes here are any thirteen distinct
values; the model's own are open (log 2). -/

namespace Sys2Proof.Tests

open Sys2Proof.Machine

/-! ### The test machine -/

/-- Thirteen distinct command bytes, for the tests only. -/
def bytes : Opcodes where
  swReset := 0x12#8
  driverOutputControl := 0x01#8
  dataEntryMode := 0x11#8
  ramXWindow := 0x44#8
  ramYWindow := 0x45#8
  ramXCounter := 0x4E#8
  ramYCounter := 0x4F#8
  borderWaveform := 0x3C#8
  duc1 := 0x21#8
  duc2 := 0x22#8
  writeRamBw := 0x24#8
  writeRamRed := 0x26#8
  masterActivation := 0x20#8

/-- This hardware's policies and timing (R9) with the test bytes and no optional payload. -/
def config : Config where
  opcodes := bytes
  demPayload := [0x03#8]
  bwfPayload := none
  duc1Payload := none
  duc2Payload := none
  csReleaseOnFail := false
  busyMaxSamples := none
  lenPolicy := .failFast
  tResetLowMs := 100
  tResetHighMs := 100
  tPollMs := 10
  rows := 212
  cols := 104
  planeBytes := 2756

/-- An idle block in a phase, CS and DC at `H`, whose next answers are the given ones. -/
def block (ph : Phase) (pins : List PinAnswer) (busy : List BusyAnswer) (bus : List BusAnswer) : State :=
  { State.reset with
    cfg := config, phase := ph, pinCS := .H, pinDC := .H
    pinIn := ⟨pins, 0⟩, busyIn := ⟨busy, 0⟩, busIn := ⟨bus, 0⟩ }

/-- `n` answers `ok` to pin sets. -/
def oks (n : Nat) : List PinAnswer := List.replicate n .ok

/-- `n` answers `ok` to bus writes. -/
def sent (n : Nat) : List BusAnswer := List.replicate n .ok

/-- `n` BUSY samples of `H`, then one of `L`. -/
def busyFor (n : Nat) : List BusyAnswer := List.replicate n (.ok .H) ++ [.ok .L]

/-- What a test compares: the new events, the phase, the sticky bits, CS, DC and RST. -/
structure View where
  events : List Event
  phase : Phase
  viol : Bool
  refd : Bool
  cs : PinLevel
  dc : PinLevel
  rst : PinLevel
  deriving DecidableEq, Repr

/-- The view of an outcome. -/
def view : Host.Outcome State Fault Refusal → Option View
  | .next t => some ⟨t.history, t.phase, t.viol, t.refd, t.pinCS, t.pinDC, t.pinRST⟩
  | .fault _ => none
  | .refused _ => none

/-- `POLLS` of an outcome. -/
def polls : Host.Outcome State Fault Refusal → Option Nat
  | .next t => some t.polls
  | .fault _ => none
  | .refused _ => none

/-- `SEQ` of an outcome. -/
def position : Host.Outcome State Fault Refusal → Option Seq
  | .next t => some t.seq
  | .fault _ => none
  | .refused _ => none

/-- `LAST_RSP` of an outcome. -/
def lastRsp : Host.Outcome State Fault Refusal → Option Response
  | .next t => t.lastRsp
  | .fault _ => none
  | .refused _ => none

/-- An instruction, and then `n` steps of its operation. -/
def run (n : Nat) (i : Instr) (s : State) : Host.Outcome State Fault Refusal :=
  match exec i s with
  | .next t => Host.Core.run Sys2Proof.core n t
  | .fault f => .fault f
  | .refused r => .refused r

/-- One step of a block whose `SEQ` is at a position of an operation, with the given latches. -/
def stepAt (op : Operation) (pos : Nat) (l : Latches) (s : State) : Host.Outcome State Fault Refusal :=
  step ((s.loadLatches l).atPosition op pos)

/-- The payloads that a sequence writes, in order. -/
def payloads : List Primitive → List (List Byte)
  | [] => []
  | .busWrite P :: ms => P :: payloads ms
  | .pinSet _ _ :: ms => payloads ms
  | .sleep _ :: ms => payloads ms
  | .pinRead :: ms => payloads ms
  | .pollSleep _ :: ms => payloads ms

/-- `n` steps of an operation that has not answered before the last of them. -/
def walk : Nat → State → Option State
  | 0, s => some s
  | n + 1, s =>
    if s.seq = .idle then none
    else
      match step s with
      | .next t => walk n t
      | .fault _ => none
      | .refused _ => none

theorem walk_goesOnTo {t : State} : ∀ (n : Nat) (s : State), walk n s = some t → s.GoesOnTo t := by
  intro n
  induction n with
  | zero => intro s h; cases h; exact .here
  | succ n ih =>
    intro s h
    unfold walk at h
    split at h
    · cases h
    · split at h
      · exact .head ‹_› ‹_› (ih _ h)
      · cases h
      · cases h

/-! ### WellFormed: each check refuses an ill-formed term -/

theorem test_wf_sendCommand_outside_set : (Instr.sendCommand 0x00#8).wellFormed bytes = false := by decide
theorem test_wf_sendCommandData_outside_set : (Instr.sendCommandData 0xFF#8 none).wellFormed bytes = false := by decide
theorem test_wf_reservedOp_unreserved : (Instr.reservedOp 0x70000000#32 []).wellFormed bytes = false := by decide
theorem test_wf_accepts : (Instr.sendCommand 0x12#8).wellFormed bytes = true ∧
    (Instr.reservedOp 0xB1234567#32 [0x00#8]).wellFormed bytes = true := by decide

/-! ### Decode: words written out from R64 and R68 (V-DEC) -/

theorem test_decode_send_command :
    decode ⟨0b00010000000000000000000000010010#32, []⟩ = .instr (.sendCommand 0x12#8) := by decide
theorem test_decode_send_data :
    decode ⟨0b00100000000000000000000000000000#32, []⟩ = .instr (.sendData []) := by decide
theorem test_decode_send_command_data :
    decode ⟨0b00111000000000000000000000100010#32, []⟩ = .instr (.sendCommandData 0x22#8 (some [])) ∧
    decode ⟨0b00110000000000000000000000100010#32, []⟩ = .instr (.sendCommandData 0x22#8 none) := by decide
theorem test_decode_reset : decode ⟨0b01000000000000000000000000000000#32, []⟩ = .instr .reset := by decide
theorem test_decode_busy_wait : decode ⟨0b01010000000000000000000000000000#32, []⟩ = .instr .busyWait := by decide
theorem test_decode_set_address_counter :
    decode ⟨0b01100000000000001101001100000101#32, []⟩ = .instr (.setAddressCounter 0x05#8 0x00D3#16) := by decide
theorem test_decode_init : decode ⟨0b01110000000000000000000000000000#32, []⟩ = .instr .init := by decide
theorem test_decode_update_plane :
    decode ⟨0b10000000000000000000000000000000#32, [0xAA#8]⟩ = .instr (.updatePlane .bw [0xAA#8]) ∧
    decode ⟨0b10000100000000000000000000000000#32, [0xAA#8]⟩ = .instr (.updatePlane .red [0xAA#8]) := by decide
theorem test_decode_refresh : decode ⟨0b10010000000000000000000000000000#32, []⟩ = .instr .refresh := by decide
theorem test_decode_reserved :
    decode ⟨0x00000000#32, []⟩ = .instr (.reservedOp 0x00000000#32 []) ∧
    decode ⟨0xF0000000#32, []⟩ = .instr (.reservedOp 0xF0000000#32 []) := by decide
theorem test_decode_refuses :
    decode ⟨0x10000012#32, [0x00#8]⟩ = .rejected .payloadNotAllowed ∧
    decode ⟨0x20000001#32, [0x00#8, 0x00#8]⟩ = .rejected .nonzeroBits ∧
    decode ⟨0x30000022#32, [0x00#8]⟩ = .rejected .payloadNotAllowed ∧
    decode ⟨0x3C000022#32, [0x00#8]⟩ = .rejected .nonzeroBits ∧
    decode ⟨0x40000100#32, []⟩ = .rejected .nonzeroBits ∧
    decode ⟨0x61000000#32, []⟩ = .rejected .nonzeroBits ∧
    decode ⟨0x68000000#32, []⟩ = .rejected .nonzeroBits ∧
    decode ⟨0x88000000#32, [0x00#8]⟩ = .rejected .nonzeroBits := by decide
theorem test_decode_wire :
    Command.all.map (fun c => decodeWire bytes (bytes.byte c)) = Command.all.map some ∧
    decodeWire bytes 0x00#8 = none := by decide

/-! ### Encode (R86) -/

theorem test_encode_core :
    encode bytes (.sendCommandData 0x4E#8 (some [0x00#8])) = ⟨0x3800004E#32, [0x00#8]⟩ ∧
    encode bytes (.setAddressCounter 0x0C#8 0x00D3#16) = ⟨0x6000D30C#32, []⟩ := by decide
theorem test_encode_names :
    encode bytes (.updateRed [0x01#8]) = ⟨0x84000000#32, [0x01#8]⟩ ∧
    encode bytes (.opcSwReset none) = ⟨0x10000012#32, []⟩ ∧
    encode bytes (.opcDuc2 (some [0xC7#8])) = ⟨0x38000022#32, [0xC7#8]⟩ := by decide

/-! ### Table words: every 32-bit row is decoded, and its word is run as the first request after reset -/

/-- A step answers a next state. -/
def goesOn : Host.Outcome State Fault Refusal → Bool
  | .next _ => true
  | .fault _ => false
  | .refused _ => false

theorem test_tableWord_refresh : decodeTableWord 32 0x90000000 = some .refresh := by decide
theorem test_tableWord_unplaced_bits : decodeTableWord 32 0x40000100 = none := by decide
theorem test_withFetchWord_runs : goesOn (step (State.reset.withFetchWord 32 0x70000000)) = true := by decide

/-! ### Protocol Channel (V-PC) -/

/-- V-PC-1: four primitives, one a step. -/
theorem test_send_command_ok : view (run 4 (.sendCommand 0x12#8) (block .INITIALIZED (oks 3) [] (sent 1))) =
    some ⟨[.set .DC .L .ok, .set .CS .L .ok, .write [0x12#8] .ok, .set .CS .H .ok, .rsp .ok none], .INITIALIZED, false,
      false, .H, .L, .U⟩ := by decide
/-- V-PC-18: a raw send from FAULTED runs and sets VIOL. -/
theorem test_send_data_from_faulted : view (run 4 (.sendData [0xAA#8]) (block .FAULTED (oks 3) [] (sent 1))) =
    some ⟨[.set .DC .H .ok, .set .CS .L .ok, .write [0xAA#8] .ok, .set .CS .H .ok, .rsp .ok none], .FAULTED, true,
      false, .H, .H, .U⟩ := by decide
/-- V-PC-13: an empty payload is a payload. -/
theorem test_send_command_data_empty :
    view (run 8 (.sendCommandData 0x22#8 (some [])) (block .INITIALIZED (oks 6) [] (sent 2))) =
    some ⟨[.set .DC .L .ok, .set .CS .L .ok, .write [0x22#8] .ok, .set .CS .H .ok, .set .DC .H .ok, .set .CS .L .ok,
      .write [] .ok, .set .CS .H .ok, .rsp .ok none], .INITIALIZED, false, false, .H, .H, .U⟩ := by decide
/-- V-PC-16: the data frame's first pin set fails. -/
theorem test_send_command_data_dc_fails : ∀ e : PinFault,
    view (stepAt .sendCommandData 4 (Latches.commandData 0x22#8 (some [0x01#8])) (block .INITIALIZED [.err e] [] [])) =
    some ⟨[.set .DC .H (.err e), .rsp .pinError (some (.pin e))], .FAULTED, false, false, .H, .U, .U⟩ := fun _ => rfl
/-- V-PC-6: the release of chip-select fails too, and the bus failure is reported. -/
theorem test_cs_release_fails : ∀ (e : BusFault) (e2 : PinFault),
    let s := block .INITIALIZED (oks 2 ++ [.err e2]) [] [.err e]
    view (run 4 (.sendCommand 0x12#8) { s with cfg := { config with csReleaseOnFail := true } }) =
    some ⟨[.set .DC .L .ok, .set .CS .L .ok, .write [0x12#8] (.err e), .set .CS .H (.err e2),
      .rsp .busError (some (.bus e))], .FAULTED, false, false, .U, .L, .U⟩ := fun _ _ => rfl
/-- V-DEC-6: a byte outside the command set is refused and not sent. -/
theorem test_byte_outside_set_refused : view (exec (.sendCommand 0x00#8) (block .INITIALIZED (oks 3) [] (sent 1))) =
    some ⟨[.rsp .refused none], .INITIALIZED, false, true, .H, .H, .U⟩ := by decide
/-- R77: a wire command is its raw send. -/
theorem test_wire_raw : view (run 8 (.opcRamXCounter (some [0x00#8])) (block .INITIALIZED (oks 6) [] (sent 2))) =
    some ⟨[.set .DC .L .ok, .set .CS .L .ok, .write [0x4E#8] .ok, .set .CS .H .ok, .set .DC .H .ok, .set .CS .L .ok,
      .write [0x00#8] .ok, .set .CS .H .ok, .rsp .ok none], .INITIALIZED, false, false, .H, .H, .U⟩ := by decide
/-- R22: after acceptance and two primitives `SEQ` holds SEND_COMMAND's third, and nothing has been answered. -/
theorem test_seq_between_primitives :
    let out := run 2 (.sendCommand 0x12#8) (block .INITIALIZED (oks 3) [] (sent 1))
    position out = some (.run .sendCommand 2) ∧ lastRsp out = none ∧
    view out = some ⟨[.set .DC .L .ok, .set .CS .L .ok], .INITIALIZED, false, false, .L, .L, .U⟩ := by decide

/-! ### Reset and BusyWait (V-RB) -/

/-- V-RB-1, accepted as the first request after block reset. -/
theorem test_reset_ok :
    view (Host.Core.run Sys2Proof.core 5
      { block .UNINITIALIZED (oks 2) [] [] with requests := [⟨0x40000000#32, []⟩] }) =
    some ⟨[.req 0x40000000#32 [], .set .RST .L .ok, .sleep 100, .set .RST .H .ok, .sleep 100, .rsp .ok none], .RESETTING,
      false, false, .H, .H, .H⟩ := by decide
/-- V-RB-3: no second sleep after the second pin set fails. -/
theorem test_reset_second_set_fails : ∀ e : PinFault,
    view (run 3 .reset (block .UNINITIALIZED [.ok, .err e] [] [])) =
    some ⟨[.set .RST .L .ok, .sleep 100, .set .RST .H (.err e), .rsp .pinError (some (.pin e))], .FAULTED, false, false,
      .H, .H, .U⟩ := fun _ => rfl
/-- V-RB-6: three samples, two sleeps, `POLLS` = 3. -/
theorem test_busy_wait_three_samples :
    let out := run 5 .busyWait (block .RESETTING [] (busyFor 2) [])
    view out = some ⟨[.sample (.ok .H), .sleep 10, .sample (.ok .H), .sleep 10, .sample (.ok .L), .rsp .ok none],
      .READY_TO_INIT, false, false, .H, .H, .U⟩ ∧ polls out = some 3 := by decide
/-- V-RB-9: a bound of 1 times out on the first `H`, with no sleep. -/
theorem test_busy_wait_timeout :
    let s := { block .RESETTING [] (busyFor 1) [] with cfg := { config with busyMaxSamples := some 1 } }
    view (run 1 .busyWait s) = some ⟨[.sample (.ok .H), .rsp .timeout none], .FAULTED, false, false, .H, .H, .U⟩ ∧
    polls (run 1 .busyWait s) = some 1 := by decide

/-! ### RAM Address Setter and INIT (V-AI) -/

/-- V-AI-2, and V-AI-7 for `VIOL`: 16 primitives, the Y counter's low byte first. -/
theorem test_set_address_counter :
    payloads (setAddressCounterPrimitives config (Latches.counter 0x05#8 0x00D3#16)) =
      [[0x4E#8], [0x05#8], [0x4F#8], [0xD3#8, 0x00#8]] ∧
    (setAddressCounterPrimitives config (Latches.counter 0x05#8 0x00D3#16)).length = 16 ∧
    (view (exec (.setAddressCounter 0x05#8 0x00D3#16) (block .READY_TO_INIT [] [] []))).map View.viol = some true := by
  decide
/-- V-AI-6: the X data write fails; the Y part is not sent. -/
theorem test_set_address_counter_write_fails : ∀ e : BusFault,
    view (stepAt .setAddressCounter 6 (Latches.counter 0x00#8 0x0000#16) (block .INITIALIZED [] [] [.err e])) =
    some ⟨[.write [0x00#8] (.err e), .rsp .busError (some (.bus e))], .FAULTED, false, false, .H, .H, .U⟩ := fun _ => rfl
/-- V-AI-8: the writes in the fixed order; 54 events, so 56 positions with the two poll sleeps not taken. -/
theorem test_init_writes : payloads (initPrimitives config) =
    [[0x12#8], [0x01#8], [0xD3#8, 0x00#8, 0x00#8], [0x11#8], [0x03#8], [0x44#8], [0x00#8, 0x0C#8], [0x45#8],
      [0x00#8, 0x00#8, 0xD3#8, 0x00#8], [0x3C#8], [0x21#8], [0x22#8]] ∧ (initPrimitives config).length = 56 := by decide
/-- V-AI-10: the software reset's write, the eighth primitive INIT runs, fails; nothing follows it. -/
theorem test_init_swReset_fails : ∀ e : BusFault,
    view (stepAt .init 8 Latches.none (block .UNINITIALIZED (oks 1) [.ok .L] [.err e])) =
    some ⟨[.write [0x12#8] (.err e), .rsp .busError (some (.bus e))], .FAULTED, false, false, .H, .H, .U⟩ := fun _ => rfl
/-- R113: the positions of INIT's waits and of its last primitive. -/
theorem test_init_step_names : [0, 4, 6, 10, 12, 20, 28, 36, 44, 48, 52, 55].map (initStepAt config) =
    [some .S1, some .S2, some .S3, some .S4, some .S5, some .S6, some .S7, some .S8, some .S9, some .S10, some .S11,
      some .S11] ∧ initStepAt config 56 = none := by decide
/-- V-AI-13: INIT's last primitive, reached from `FAULTED`: `INITIALIZED`, no `VIOL`. -/
theorem test_init_recovers : view (stepAt .init 55 Latches.none (block .FAULTED (oks 1) [] [])) =
    some ⟨[.set .CS .H .ok, .rsp .ok none], .INITIALIZED, false, false, .H, .H, .U⟩ := by decide

/-! ### Framebuffer Writer and Refresh Trigger (V-PR) -/

/-- V-PR-2: the red plane's writes, for a buffer in the latch. -/
theorem test_update_red_writes : ∀ buf : List Byte,
    payloads (updatePlanePrimitives config (Latches.plane .red buf)) =
      [[0x4E#8], [0x00#8], [0x4F#8], [0x00#8, 0x00#8], [0x26#8], buf] ∧
    (updatePlanePrimitives config (Latches.plane .red buf)).length = 24 := fun _ => ⟨rfl, rfl⟩
/-- V-PR-2: the phase after the last primitive. -/
theorem test_update_plane_stages : view (stepAt .updatePlane 23 (Latches.plane .bw []) (block .INITIALIZED (oks 1) [] [])) =
    some ⟨[.set .CS .H .ok, .rsp .ok none], .PLANES_STAGED, false, false, .H, .H, .U⟩ := by decide
/-- V-PR-7: the length check comes before the phase check. -/
theorem test_update_bw_wrong_length : view (exec (.updateBw [0x00#8]) (block .UNINITIALIZED (oks 18) [] (sent 6))) =
    some ⟨[.rsp .lengthMismatch none], .UNINITIALIZED, false, false, .H, .H, .U⟩ := by decide
/-- R9, R126: the length checked is the record's `PLANE_BYTES`. -/
theorem test_update_bw_record_length :
    position (exec (.updateBw [0x00#8]) { block .INITIALIZED [] [] [] with cfg := { config with planeBytes := 1 } }) =
    some (.run .updatePlane 0) := by decide
/-- V-PR-6: under `REFUSE`. -/
theorem test_update_plane_refused :
    view (exec (.updatePlane .bw []) { block .INITIALIZED [] [] [] with cfg := { config with lenPolicy := .refuse } }) =
    some ⟨[.rsp .refused none], .INITIALIZED, false, true, .H, .H, .U⟩ := by decide
/-- V-PR-11: master activation, one `H` sample, one `L`. -/
theorem test_refresh_ok :
    let out := run 7 .refresh (block .PLANES_STAGED (oks 3) (busyFor 1) (sent 1))
    view out = some ⟨cmdFrameOk 0x20#8 ++ [.sample (.ok .H), .sleep 10, .sample (.ok .L), .rsp .ok none], .REFRESHED,
      false, false, .H, .L, .U⟩ ∧ polls out = some 2 := by decide
/-- V-PR-14: no BUSY sample after a failing command write. -/
theorem test_refresh_write_fails : ∀ e : BusFault,
    view (run 3 .refresh (block .PLANES_STAGED (oks 3) (busyFor 1) [.err e])) =
    some ⟨[.set .DC .L .ok, .set .CS .L .ok, .write [0x20#8] (.err e), .rsp .busError (some (.bus e))], .FAULTED, false,
      false, .L, .L, .U⟩ := fun _ => rfl

/-! ### Results (V-EX) -/

/-- V-EX-1: `LAST_RSP` after the write of V-PC-4 fails, whatever the failure's value. -/
theorem test_lastRsp_bus : ∀ e : BusFault,
    lastRsp (stepAt .sendCommand 2 (Latches.command 0x12#8) (block .INITIALIZED [] [] [.err e])) =
    some ⟨.busError, some (.bus e), .FAULTED, false, false⟩ := fun _ => rfl
/-- V-EX-2: a reserved `OP` from the block-reset state. -/
theorem test_lastRsp_refused :
    lastRsp (step { State.reset with requests := [⟨0xA0000000#32, []⟩] }) =
    some ⟨.refused, none, .UNINITIALIZED, false, true⟩ := by decide

/-! ### Witnesses: a state and operands that meet the hypotheses of each statement, clause by clause

A failing answer carries a value of an opaque type that may have none (log 3): where a clause is about such an
answer, its witness is for every such value. -/

/-- A block whose next 60 pin sets and 40 bus writes are answered `ok`, with the given BUSY samples. -/
def good (ph : Phase) (busy : List BusyAnswer) : State := block ph (oks 60) busy (sent 40)

/-- A block with a poll bound. -/
def bounded (n : Nat) (busy : List BusyAnswer) : State :=
  { good .RESETTING busy with cfg := { config with busyMaxSamples := some n } }

theorem witness_DecodeOfEncodeIsExpand : ∀ i ∈ [Instr.sendCommand 0x26#8, .sendCommandData 0x12#8 (some []),
    .setAddressCounter 0xFF#8 0xFFFF#16, .reservedOp 0xFFFFFFFF#32 [0x00#8], .opcDuc1 none, .updateRed []],
    i.wellFormed bytes = true := by decide
theorem witness_AcceptedRequestIsItsEncoding :
    decode ⟨0x60FFFFFF#32, []⟩ = .instr (.setAddressCounter 0xFF#8 0xFFFF#16) := by decide
theorem witness_WordSelectsTheRowItMatches :
    (decode ⟨0x84000000#32, []⟩ = .instr (.updatePlane .red []) ∧
      operation (.updatePlane .red []) = some .updatePlane ∧
      (Operation.updatePlane, 0x80000000#32, 0xFBFFFFFF#32) ∈ matchMaskRows) ∧
    (∀ row ∈ matchMaskRows, 0x02000000#32 &&& row.2.2 ≠ row.2.1) ∧
    (∀ row ∈ matchMaskRows, 0x82000000#32 &&& row.2.2 ≠ row.2.1) := by decide
theorem witness_AcceptedRequestLeavesUnusedFieldsZero :
    (decode ⟨0x38000022#32, [0x01#8]⟩ = .instr (.sendCommandData 0x22#8 (some [0x01#8])) ∧
      opReserved 0x38000022#32 = false) ∧
    (decode ⟨0x90000000#32, []⟩ = .instr .refresh ∧ opReserved 0x90000000#32 = false) ∧
    (decode ⟨0x6000D30C#32, []⟩ = .instr (.setAddressCounter 0x0C#8 0x00D3#16) ∧
      opReserved 0x6000D30C#32 = false) := by decide
theorem witness_WindowEndsAreDerivedFromTheGeometry : config.panelGeometry = true := by decide
/-- A block whose REQ port holds one request. -/
def asked (r : Request) (s : State) : State := { s with requests := [r] }

/-- One request of each operation, its byte in the command set. -/
theorem witness_LatchesAreTheRequestsFields :
    (∀ p ∈ [((⟨0x10000012#32, []⟩ : Request), Instr.sendCommand 0x12#8, Operation.sendCommand),
        (⟨0x20000000#32, [0x01#8]⟩, .sendData [0x01#8], .sendData),
        (⟨0x38000022#32, []⟩, .sendCommandData 0x22#8 (some []), .sendCommandData), (⟨0x40000000#32, []⟩, .reset, .reset),
        (⟨0x50000000#32, []⟩, .busyWait, .busyWait),
        (⟨0x60FFFFFF#32, []⟩, .setAddressCounter 0xFF#8 0xFFFF#16, .setAddressCounter),
        (⟨0x70000000#32, []⟩, .init, .init), (⟨0x90000000#32, []⟩, .refresh, .refresh)],
      decode p.1 = .instr p.2.1 ∧ operation p.2.1 = some p.2.2 ∧ (asked p.1 (good .FAULTED [])).seq = .idle ∧
        (asked p.1 (good .FAULTED [])).requests = [p.1] ∧
        (p.2.2 = .sendCommand ∨ p.2.2 = .sendCommandData → bytes.holds (bField p.1.word) = true)) ∧
    (∀ P : List Byte, decode ⟨0x84000000#32, P⟩ = .instr (.updatePlane .red P)) ∧
    (List.replicate 2756 0#8).length = config.planeBytes := by
  refine ⟨by decide, fun P => ?_, List.length_replicate ..⟩
  have h : (opField 0x84000000#32).toNat = 8 := by decide
  simp only [decode, h]
  rfl
theorem witness_WireDecodeOfEveryCommandByte : bytes.distinct = true := by decide
theorem witness_StepRunsTheDecodedRequest :
    (good .INITIALIZED []).seq = .idle ∧ (good .INITIALIZED []).requests = [] ∧
    (asked ⟨0x70000000#32, []⟩ (good .INITIALIZED [])).requests = [⟨0x70000000#32, []⟩] ∧
    decode ⟨0x70000000#32, []⟩ = .instr .init ∧ decode ⟨0x70000001#32, []⟩ = .rejected .nonzeroBits := by decide
/-- An operation that begins, and one turned away with each of the two responses. -/
theorem witness_AnOperationBeginsAtItsFirstPrimitive :
    (operation (.opcDuc1 (some [0x01#8])) = some .sendCommandData ∧
      ∃ t, exec (.opcDuc1 (some [0x01#8])) (good .RESETTING []) = .next t ∧ t.seq = .run .sendCommandData 0 ∧
        t.latches = ⟨0x21#8, 0#16, true, false, [0x01#8]⟩) ∧
    (operation (.updateBw []) = some .updatePlane ∧ ∃ t, exec (.updateBw []) (good .RESETTING []) = .next t ∧
      t.lastRsp.map Response.code = some .lengthMismatch) ∧
    (operation (.sendCommand 0x00#8) = some .sendCommand ∧ ∃ t, exec (.sendCommand 0x00#8) (good .RESETTING []) = .next t ∧
      t.lastRsp.map Response.code = some .refused) :=
  ⟨⟨rfl, _, rfl, by decide, by decide⟩, ⟨rfl, _, rfl, by decide⟩, rfl, _, rfl, by decide⟩
/-- A middle primitive and a last one. -/
theorem witness_StepRunsOnePrimitive :
    (∃ t, step ((good .INITIALIZED []).atPosition .reset 1) = .next t ∧ t.seq ≠ .idle) ∧
    (∃ t, step ((good .INITIALIZED []).atPosition .reset 3) = .next t ∧ t.seq = .idle) ∧
    (Operation.reset.primitives config (good .INITIALIZED []).latches)[1]? = some (.sleep 100) ∧
    (Operation.reset.primitives config (good .INITIALIZED []).latches)[3]? = some (.sleep 100) :=
  ⟨⟨_, rfl, by decide⟩, ⟨_, rfl, by decide⟩, by decide, by decide⟩
/-- A primitive of each kind, with each kind of answer. -/
theorem witness_PositionMovesAsTheRuleSays :
    (let ms := Operation.refresh.primitives config (good .PLANES_STAGED []).latches;
      ms[0]? = some (.pinSet .DC .L) ∧ ms[2]? = some (.busWrite [0x20#8]) ∧ ms[4]? = some .pinRead ∧
        ms[5]? = some (.pollSleep 10)) ∧
    (Operation.reset.primitives config (good .FAULTED []).latches)[3]? = some (.sleep 100) ∧
    (good .PLANES_STAGED []).pinAnswer 0 = .ok ∧ (good .PLANES_STAGED []).busAnswer 0 = .ok ∧
    (good .PLANES_STAGED (busyFor 0)).busyAnswer 0 = .ok .L ∧
    (good .PLANES_STAGED (busyFor 1)).busyAnswer 0 = .ok .H ∧ (good .PLANES_STAGED (busyFor 1)).withinBound 1 ∧
    (bounded 1 (busyFor 1)).busyAnswer 0 = .ok .H ∧ ¬ (bounded 1 (busyFor 1)).withinBound 1 ∧
    (∀ e, (block .PLANES_STAGED [.err e] [] []).pinAnswer 0 = .err e) ∧
    (∀ e, (block .PLANES_STAGED [] [.err e] []).busyAnswer 0 = .err e) ∧
    (∀ e, (block .PLANES_STAGED [] [] [.err e]).busAnswer 0 = .err e) := by
  refine ⟨by decide, by decide, by decide, by decide, by decide, by decide, ?_, by decide, ?_, fun _ => rfl, fun _ => rfl,
    fun _ => rfl⟩
  · intro n hn; cases hn
  · intro h; exact absurd (h 1 rfl) (by decide)
theorem witness_ChipSelectReleaseReportsTheWrite : ∀ e : BusFault,
    ((good .INITIALIZED []).atRelease .sendCommand 2 e).seq = .release .sendCommand 2 e := fun _ => rfl
/-- Onto a wait, within one, and away from both. -/
theorem witness_PollsCountsTheSamplesOfAWait :
    (∃ t, step ((good .PLANES_STAGED []).atPosition .refresh 3) = .next t ∧ t.seq = .run .refresh 4) ∧
    (∃ t, step ((good .PLANES_STAGED (busyFor 1)).atPosition .refresh 4) = .next t ∧ t.seq = .run .refresh 5) ∧
    (∃ t, step ((good .PLANES_STAGED (busyFor 1)).atPosition .refresh 5) = .next t ∧ t.seq = .run .refresh 4) ∧
    (∃ t, step ((good .PLANES_STAGED []).atPosition .refresh 0) = .next t ∧ t.seq = .run .refresh 1) :=
  ⟨⟨_, rfl, by decide⟩, ⟨_, rfl, by decide⟩, ⟨_, rfl, by decide⟩, _, rfl, by decide⟩
theorem witness_SendCommandCompletes : (good .UNINITIALIZED []).cfg.opcodes.holds 0x12#8 = true ∧
    (good .UNINITIALIZED []).pinsOk 3 ∧ (good .UNINITIALIZED []).busOk 1 := by decide
theorem witness_SendDataCompletes : (good .REFRESHED []).pinsOk 3 ∧ (good .REFRESHED []).busOk 1 := by decide
theorem witness_SendCommandDataCompletes : (good .INITIALIZED []).cfg.opcodes.holds 0x20#8 = true ∧
    (good .INITIALIZED []).pinsOk 6 ∧ (good .INITIALIZED []).busOk 2 := by decide
theorem witness_RawWireCommandsComplete : (good .INITIALIZED []).pinsOk 6 ∧ (good .INITIALIZED []).busOk 2 ∧
    (good .INITIALIZED []).pinsOk 3 ∧ (good .INITIALIZED []).busOk 1 := by decide
theorem witness_ByteOutsideTheCommandSetIsRefused :
    ∀ c ∈ Command.all, (good .INITIALIZED []).cfg.opcodes.byte c ≠ 0x00#8 := by decide
/-- One block for each clause. -/
theorem witness_CommandFrameStopsAtItsFirstFailure :
    (block .INITIALIZED [] [] []).cfg.opcodes.holds 0x12#8 = true ∧
    (∀ e, (block .INITIALIZED [.err e] [] []).pinAnswer 0 = .err e) ∧
    (∀ e, (block .INITIALIZED [.ok, .err e] [] []).pinsOk 1 ∧ (block .INITIALIZED [.ok, .err e] [] []).pinAnswer 1 = .err e) ∧
    (∀ e, (block .INITIALIZED (oks 2) [] [.err e]).pinsOk 2 ∧ (block .INITIALIZED (oks 2) [] [.err e]).busAnswer 0 = .err e ∧
      (block .INITIALIZED (oks 2) [] [.err e]).cfg.csReleaseOnFail = false) ∧
    { config with csReleaseOnFail := true }.csReleaseOnFail = true ∧
    (∀ e, (block .INITIALIZED (oks 2 ++ [.err e]) [] (sent 1)).pinsOk 2 ∧
      (block .INITIALIZED (oks 2 ++ [.err e]) [] (sent 1)).busOk 1 ∧
      (block .INITIALIZED (oks 2 ++ [.err e]) [] (sent 1)).pinAnswer 2 = .err e) := by
  refine ⟨by decide, fun _ => rfl, fun e => ⟨?_, rfl⟩, fun e => ⟨?_, rfl, rfl⟩, rfl, fun e => ⟨?_, ?_, rfl⟩⟩
  · intro k hk; interval_cases k; rfl
  · intro k hk; interval_cases k <;> rfl
  · intro k hk; interval_cases k <;> rfl
  · intro k hk; interval_cases k; rfl
theorem witness_ResetPulseSucceedsOrStops : (good .FAULTED []).pinsOk 2 ∧
    (∀ e, (block .FAULTED [.err e] [] []).pinAnswer 0 = .err e) ∧
    (∀ e, (block .FAULTED [.ok, .err e] [] []).pinsOk 1 ∧ (block .FAULTED [.ok, .err e] [] []).pinAnswer 1 = .err e) := by
  refine ⟨by decide, fun _ => rfl, fun e => ⟨?_, rfl⟩⟩
  intro k hk; interval_cases k; rfl
/-- No wait, an unbounded wait, and the last sample a bound allows. -/
theorem witness_BusyWaitEndsAtTheFirstLow :
    ((good .RESETTING (busyFor 0)).busyThenReady 0 0 ∧ (bounded 1 (busyFor 0)).withinBound 0) ∧
    ((good .RESETTING (busyFor 2)).busyThenReady 0 2 ∧ (bounded 3 (busyFor 2)).withinBound 2) := by
  refine ⟨⟨by decide, ?_⟩, by decide, ?_⟩ <;> · intro n hn; cases hn; decide
theorem witness_FailingSampleEndsTheWait : ∀ e : PinFault,
    let s := bounded 2 [.ok .H, .err e];
    (∀ j < 1, s.busyAnswer j = .ok .H) ∧ s.busyAnswer 1 = .err e ∧ s.withinBound 1 := by
  refine fun e => ⟨?_, rfl, ?_⟩
  · intro j hj; interval_cases j; rfl
  · intro n hn; cases hn; decide
theorem witness_BoundedWaitTimesOut :
    (bounded 1 [.ok .H]).cfg.busyMaxSamples = some (0 + 1) ∧ (∀ j < 0 + 1, (bounded 1 [.ok .H]).busyAnswer j = .ok .H) ∧
    (bounded 3 (busyFor 3)).cfg.busyMaxSamples = some (2 + 1) ∧
    (∀ j < 2 + 1, (bounded 3 (busyFor 3)).busyAnswer j = .ok .H) := by decide
/-- A BUSY_WAIT from its start, and a REFRESH at its wait. -/
theorem witness_UnboundedWaitGoesOnWhileBusy : (good .RESETTING (busyFor 3)).cfg.busyMaxSamples = none ∧
    (∀ j ≤ 2, (good .RESETTING (busyFor 3)).busyAnswer j = .ok .H) ∧
    ((good .INITIALIZED (busyFor 3)).atPosition .refresh 4).waiting = true ∧
    (∀ j < 3, ((good .INITIALIZED (busyFor 3)).atPosition .refresh 4).busyAnswer j = .ok .H) := by decide
theorem witness_SetAddressCounterCompletes : (good .INITIALIZED []).pinsOk 12 ∧ (good .INITIALIZED []).busOk 4 := by
  decide
/-- Waits of 1 and 2 `H` samples. -/
theorem witness_InitCompletes :
    let s := good .FAULTED (busyFor 1 ++ busyFor 2);
    s.busyThenReady 0 1 ∧ s.busyThenReady 2 2 ∧ s.withinBound 1 ∧ s.withinBound 2 ∧ s.pinsOk (initPinSets s.cfg) ∧
      s.busOk (initWrites s.cfg) := by
  refine ⟨by decide, by decide, ?_, ?_, by decide, by decide⟩ <;> · intro n hn; cases hn
theorem witness_InitWritesInTheFixedOrder :
    let s := good .UNINITIALIZED (busyFor 0 ++ busyFor 2);
    s.cfg.panelGeometry = true ∧ s.busyThenReady 0 0 ∧ s.busyThenReady 1 2 ∧ s.withinBound 0 ∧ s.withinBound 2 ∧ s.pinsOk (initPinSets s.cfg) ∧
      s.busOk (initWrites s.cfg) := by
  refine ⟨by decide, by decide, by decide, ?_, ?_, by decide, by decide⟩ <;> · intro n hn; cases hn
/-- A step within a state, one to the next state, one past a wait, and the last. -/
theorem witness_InitStepsRunInOrder :
    (initStepAt config 0 = some .S1 ∧ ∃ t, step ((good .FAULTED []).atPosition .init 0) = .next t) ∧
    (initStepAt config 3 = some .S1 ∧ ∃ t, step ((good .FAULTED []).atPosition .init 3) = .next t) ∧
    (initStepAt config 4 = some .S2 ∧ ∃ t, step ((good .FAULTED (busyFor 0)).atPosition .init 4) = .next t) ∧
    (initStepAt config 55 = some .S11 ∧ ∃ t, step ((good .FAULTED []).atPosition .init 55) = .next t ∧ t.seq = .idle) :=
  ⟨⟨by decide, _, rfl⟩, ⟨by decide, _, rfl⟩, ⟨by decide, _, rfl⟩, by decide, _, rfl, by decide⟩
/-- An INIT on its way, and a whole one: 54 primitives (V-AI-8). -/
theorem witness_InitKeepsTheWaitingDuty :
    config.wellFormed = true ∧ (duty bytes (good .UNINITIALIZED [.ok .L, .ok .L]).history).kept = true ∧
    (∃ t0 t, exec .init (good .UNINITIALIZED [.ok .L, .ok .L]) = .next t0 ∧ t0.GoesOnTo t ∧ t.seq = .run .init 1) ∧
    (∃ t0 t, exec .init (good .UNINITIALIZED [.ok .L, .ok .L]) = .next t0 ∧ t0.GoesOnTo t ∧ t.seq = .idle ∧
      t.lastRsp.map Response.code = some .ok) := by
  refine ⟨by decide, by decide, ⟨_, _, rfl, .step .here (by decide) rfl, by decide⟩, ?_⟩
  have h : ((walk 54 ((good .UNINITIALIZED [.ok .L, .ok .L]).start .init Latches.none)).map
      fun t => (t.seq, t.lastRsp.map Response.code)) = some (.idle, some .ok) := by decide
  obtain ⟨t, ht, he⟩ := Option.map_eq_some_iff.mp h
  exact ⟨_, t, rfl, walk_goesOnTo 54 _ ht, congrArg Prod.fst he, congrArg Prod.snd he⟩
theorem witness_UpdatePlaneCompletes : (List.replicate 2756 0#8).length = (good .INITIALIZED []).cfg.planeBytes ∧ (good .INITIALIZED []).pinsOk 18 ∧
    (good .INITIALIZED []).busOk 6 := ⟨List.length_replicate .., by decide, by decide⟩
theorem witness_WrongPlaneLengthTouchesNothing : ([] : List Byte).length ≠ config.planeBytes ∧
    (List.replicate 2757 0#8).length ≠ config.planeBytes ∧ config.lenPolicy = .failFast ∧
    { config with lenPolicy := .refuse }.lenPolicy = .refuse :=
  ⟨by decide, by rw [List.length_replicate]; decide, rfl, rfl⟩
theorem witness_RefreshCompletes :
    let s := good .PLANES_STAGED (busyFor 1);
    s.busyThenReady 0 1 ∧ s.withinBound 1 ∧ s.pinsOk 3 ∧ s.busOk 1 := by
  refine ⟨by decide, ?_, by decide, by decide⟩
  intro n hn; cases hn
theorem witness_FailedActivationTakesNoSample :
    (∀ e, ∃ k < 3, (block .PLANES_STAGED (oks 2 ++ [.err e]) [] (sent 1)).pinAnswer k ≠ .ok) ∧
    (∀ e, (block .PLANES_STAGED (oks 3) [] [.err e]).busAnswer 0 ≠ .ok) :=
  ⟨fun e => ⟨2, by decide, PinAnswer.noConfusion⟩, fun e => BusAnswer.noConfusion⟩
/-- A timeout, and a failing pin. -/
theorem witness_FailureEntryIsPrecise :
    (∃ t0 t r, exec .busyWait (bounded 1 [.ok .H]) = .next t0 ∧ t0.GoesOnTo t ∧ t.seq = .idle ∧ t.lastRsp = some r ∧
      r.code ∈ [RspCode.busError, .pinError, .timeout]) ∧
    (∀ e, ∃ t0 t r, exec .reset (block .INITIALIZED [.err e] [] []) = .next t0 ∧ t0.GoesOnTo t ∧ t.seq = .idle ∧
      t.lastRsp = some r ∧ r.code ∈ [RspCode.busError, .pinError, .timeout]) :=
  ⟨⟨_, _, _, rfl, .step .here (by decide) rfl, rfl, rfl, by decide⟩,
    fun e => ⟨_, _, _, rfl, .step .here (fun h => nomatch (show Seq.run .reset 0 = .idle from h)) rfl, rfl, rfl, List.mem_cons_of_mem _ (List.mem_cons_self ..)⟩⟩
/-- A request answered at once, and one answered after a step of its operation. -/
theorem witness_ResultsAreThoseOfTheTable :
    (∃ u t r, step (asked ⟨0xA0000000#32, []⟩ (good .INITIALIZED [])) = .next u ∧ u.GoesOnTo t ∧ t.seq = .idle ∧
      t.lastRsp = some r) ∧
    (∃ u t r, step (asked ⟨0x50000000#32, []⟩ (good .RESETTING (busyFor 0))) = .next u ∧ u.GoesOnTo t ∧ t.seq = .idle ∧
      t.lastRsp = some r) :=
  ⟨⟨_, _, _, rfl, .here, rfl, rfl⟩, _, _, _, rfl, .step .here (by decide) rfl, rfl, rfl⟩
/-- An operation that begins, a step in its middle, and its last. -/
theorem witness_PhaseAndViolFollowTheTable :
    (operation .refresh = some .refresh ∧ ∃ t, exec .refresh (good .INITIALIZED []) = .next t ∧ t.seq ≠ .idle) ∧
    (operation (.updateBw []) = some .updatePlane ∧
      ∃ t, exec (.updateBw []) (good .INITIALIZED []) = .next t ∧ t.seq = .idle) ∧
    (((good .INITIALIZED []).atPosition .refresh 2).operating = some .refresh ∧
      ∃ t, step ((good .INITIALIZED []).atPosition .refresh 2) = .next t ∧ t.seq ≠ .idle) ∧
    (((good .INITIALIZED (busyFor 0)).atPosition .refresh 4).operating = some .refresh ∧
      ∃ t r, step ((good .INITIALIZED (busyFor 0)).atPosition .refresh 4) = .next t ∧ t.seq = .idle ∧ t.lastRsp = some r) :=
  ⟨⟨rfl, _, rfl, by decide⟩, ⟨rfl, _, rfl, rfl⟩, ⟨rfl, _, rfl, by decide⟩, rfl, _, _, rfl, rfl, rfl⟩
theorem witness_FromFaultedEveryOtherOperationSetsViol :
    operation (.sendData []) = some .sendData ∧ (good .FAULTED []).phase = .FAULTED ∧
    Operation.sendData ∉ [Operation.reset, .busyWait, .init] ∧
    ∃ t0 t, exec (.sendData []) (good .FAULTED []) = .next t0 ∧ t0.seq ≠ .idle ∧ t0.GoesOnTo t :=
  ⟨rfl, rfl, by decide, _, _, rfl, by decide, .step .here (by decide) rfl⟩
/-- The start, a middle step and the last step of a channel operation. -/
theorem witness_ChannelOperationsTouchOnlyTheChannel :
    (∃ t, exec (.opcDuc1 none) (good .INITIALIZED []) = .next t ∧ stepOf .sendCommand (good .INITIALIZED []) t ∧ t.seq ≠ .idle) ∧
    (∃ t r, stepOf .sendCommand ((good .INITIALIZED []).atPosition .sendCommand 3) t ∧ t.seq = .idle ∧ t.lastRsp = some r ∧
      r.code ≠ .refused) :=
  ⟨⟨_, rfl, .inl ⟨.opcDuc1 none, rfl, rfl⟩, by decide⟩, _, _, .inr ⟨rfl, rfl⟩, rfl, rfl, by decide⟩
theorem witness_ResetTouchesOnlyItsLine :
    (∃ t, (good .REFRESHED []).atPrimitive = true ∧ stepOf .reset (good .REFRESHED []) t) ∧
    (∃ t, ((good .REFRESHED []).atPosition .reset 2).atPrimitive = true ∧
      stepOf .reset ((good .REFRESHED []).atPosition .reset 2) t) :=
  ⟨⟨_, rfl, .inl ⟨.reset, rfl, rfl⟩⟩, _, by decide, .inr ⟨rfl, rfl⟩⟩
/-- The start, and a step that times out. -/
theorem witness_BusyWaitTouchesNoPin :
    (∃ t, (good .RESETTING []).atPrimitive = true ∧ stepOf .busyWait (good .RESETTING []) t) ∧
    (∃ t, ((bounded 1 [.ok .H]).atPosition .busyWait 0).atPrimitive = true ∧
      stepOf .busyWait ((bounded 1 [.ok .H]).atPosition .busyWait 0) t ∧ t.phase = .FAULTED) :=
  ⟨⟨_, rfl, .inl ⟨.busyWait, rfl, rfl⟩⟩, _, by decide, .inr ⟨rfl, rfl⟩, by decide⟩
theorem witness_InitAndRefreshFrames :
    (∃ t, stepOf .init (good .FAULTED []) t) ∧ (∃ t, stepOf .init ((good .FAULTED []).atPosition .init 2) t) ∧
    (∃ t, exec .refresh (good .PLANES_STAGED []) = .next t) ∧
    (∀ pos ∈ [2, 4], ((good .PLANES_STAGED (busyFor 1)).atPosition .refresh pos).operating = some .refresh ∧
      ∃ t, step ((good .PLANES_STAGED (busyFor 1)).atPosition .refresh pos) = .next t) :=
  ⟨⟨_, .inl ⟨.init, rfl, rfl⟩⟩, ⟨_, .inr ⟨rfl, rfl⟩⟩, ⟨_, rfl⟩, fun _ _ => ⟨rfl, _, rfl⟩⟩

/-- A block that answers a refused request with the sticky bits set: the step of the statements about every
step (`ConfigurationNeverChanges`, `HistoryOnlyGrows`, `StickyBitsStaySet`). -/
theorem witness_StickyBitsStaySet :
    let s := asked ⟨0xF0000000#32, []⟩ { good .INITIALIZED [] with viol := true, refd := true };
    s.viol = true ∧ s.refd = true ∧ ∃ t, step s = .next t := ⟨rfl, rfl, _, rfl⟩
/-- A pair of states that differ in `VIOL`, in a pin, and in `LAST_RSP`'s copy of `VIOL`. -/
theorem witness_ViolAndPinRegistersDecideNothing :
    let s := { good .UNINITIALIZED [] with lastRsp := some ⟨.ok, none, .UNINITIALIZED, false, false⟩ };
    let s' := { s with viol := true, pinCS := .L, lastRsp := some ⟨.ok, none, .UNINITIALIZED, true, false⟩ };
    sameButViolAndPins (s.atPosition .reset 1) (s'.atPosition .reset 1) ∧
      ∃ t, step (s.atPosition .reset 1) = .next t := ⟨⟨rfl, rfl⟩, _, rfl⟩
theorem witness_OnlyInitReachesInitialized :
    ∃ t, step ((good .FAULTED []).atPosition .init 55) = .next t ∧ t.phase = .INITIALIZED := ⟨_, rfl, by decide⟩

/-- A state in the middle of a wait whose history is that of its operation: it meets the invariants below. -/
def waitingBlock : State :=
  { good .RESETTING (busyFor 1) with
    pinCS := .U, pinDC := .U, seq := .run .busyWait 0, polls := 1
    history := [.req 0x50000000#32 [], .sample (.ok .H), .sleep 10] }

/-- A state in the middle of a command frame, before its write. -/
def framedBlock : State :=
  { (good .INITIALIZED []).loadLatches (Latches.command 0x12#8) with
    pinCS := .L, pinDC := .L, seq := .run .sendCommand 2
    history := [.req 0x10000012#32 [], .set .DC .L .ok, .set .CS .L .ok] }

theorem witness_PinsAreTheHistorysRecord :
    (∀ p ∈ [OutPin.CS, .DC, .RST], framedBlock.pin p = lineAfter p .U framedBlock.history) ∧
    ∃ t, step framedBlock = .next t := ⟨by decide, _, rfl⟩
theorem witness_LastRspIsTheLastResponse :
    waitingBlock.lastRsp.map (fun r => (r.code, r.native)) = (responses waitingBlock.history).getLast? ∧
    waitingBlock.seq ≠ .idle ∧ ∃ t, step waitingBlock = .next t := ⟨by decide, by decide, _, rfl⟩
theorem witness_RequestsAndResponsesBracketEveryEvent :
    bracket waitingBlock.history = .opened ∧ waitingBlock.seq ≠ .idle ∧ ∃ t, step waitingBlock = .next t :=
  ⟨by decide, by decide, _, rfl⟩
/-- At a primitive, and at the release of a write where one belongs to it. -/
theorem witness_SeqHoldsThePositionOfAPrimitive :
    (waitingBlock.atPrimitive = true ∧ ∃ t, step waitingBlock = .next t) ∧
    (∀ e, ({ framedBlock with cfg := { config with csReleaseOnFail := true } }.atRelease .sendCommand 2 e).atPrimitive =
      true) := ⟨⟨by decide, _, rfl⟩, fun _ => rfl⟩
theorem framedBlock_pinsFollow : pinsFollow framedBlock := by
  intro op pos p lvl h hd
  cases h
  cases p <;> cases lvl <;> first | rfl | exact absurd hd (by decide)
theorem witness_PinsFollowTheSequence : framedBlock.atPrimitive = true ∧ pinsFollow framedBlock ∧
    ∃ t, step framedBlock = .next t := ⟨by decide, framedBlock_pinsFollow, _, rfl⟩
/-- A wait in a configured phase, its sequence driving nothing; and a frame on its way. -/
theorem witness_ConfiguredPhaseHasChipSelectHigh :
    (let s := (good .REFRESHED (busyFor 1)).atPosition .busyWait 0;
      s.atPrimitive = true ∧ pinsFollow s ∧ s.phase.configured = true ∧
        drivenBefore .CS (Operation.busyWait.primitives s.cfg s.latches) 0 = none ∧ s.pinCS = .H ∧
        ∃ t, step s = .next t) ∧
    (framedBlock.phase.configured = true ∧ framedBlock.atPrimitive = true ∧ pinsFollow framedBlock ∧
      drivenBefore .CS (Operation.sendCommand.primitives config framedBlock.latches) 2 = some .L) := by
  refine ⟨⟨by decide, ?_, by decide, by decide, by decide, _, rfl⟩, by decide, by decide, framedBlock_pinsFollow, by decide⟩
  intro op pos p lvl h hd
  cases h; cases hd
/-- The step of a command frame's write. -/
theorem witness_EveryWriteIsFramedAndEveryCommandInTheSet :
    framedBlock.atPrimitive = true ∧ pinsFollow framedBlock ∧
    (∀ p ∈ [OutPin.CS, .DC, .RST], framedBlock.pin p = lineAfter p .U framedBlock.history) ∧
    framedBlock.operating = some .sendCommand ∧ framedBlock.cfg.opcodes.holds framedBlock.latches.b = true ∧
    transactions .U .U framedBlock.history = [] ∧
    ∃ t, step framedBlock = .next t ∧ transactions .U .U t.history = [⟨.L, .L, [0x12#8]⟩] :=
  ⟨by decide, framedBlock_pinsFollow, by decide, rfl, by decide, rfl, _, rfl, by decide⟩

end Sys2Proof.Tests
end

section
/-! PROOFS of the family 00_scope.md: the configuration at reset (R7 to R9), and the pins of an operation that goes
on (R11, R14, R29). -/

namespace Sys2Proof.Machine

/-! ### The configuration of this hardware -/

/-- The command bytes of this hardware are the images of thirteen distinct numbers under one permutation. -/
theorem openOpcodes_bytes : Config.openOpcodes.bytes =
    ([0, 1, 2, 3, 4, 5, 6, 7, 8, 9, 10, 11, 12] : List Byte).map Config.openByteOrder := rfl

/-- So they are pairwise distinct, whatever the permutation is (R76). -/
theorem openOpcodes_distinct : Config.openOpcodes.distinct = true := by
  have hn : ([0, 1, 2, 3, 4, 5, 6, 7, 8, 9, 10, 11, 12] : List Byte).Nodup := by decide
  refine decide_eq_true ?_
  rw [openOpcodes_bytes]
  exact hn.map Config.openByteOrder.injective

theorem thisHardware_wellFormed : Config.thisHardware.wellFormed = true := by
  simp [Config.wellFormed, Config.thisHardware, openOpcodes_distinct]

/-- Settles O2: the side conditions follow from how the open bytes are given, the values are those of the record. -/
theorem resetConfigurationIsThisHardware : Obligations.ResetConfigurationIsThisHardware :=
  ⟨rfl, rfl, rfl, rfl, rfl, rfl, rfl, rfl, rfl, thisHardware_wellFormed⟩

/-- Settles O3: R8's formulas at the three numbers that R7 fixes. -/
theorem windowEndsAreDerivedFromTheGeometry : Obligations.WindowEndsAreDerivedFromTheGeometry := by
  refine ⟨by decide, fun c hc => ?_⟩
  obtain ⟨hr, hk, hb⟩ := (panelGeometry_iff c).mp hc
  simp [Config.xend, Config.yend, hr, hk, hb]

/-! ### The levels an operation has driven -/

/-- Each line that the primitives of `op` before a position have driven is at the level the last of them drove. -/
def LevelsBefore (op : Operation) (pos : Nat) (s : State) : Prop :=
  ∀ p lvl, drivenBefore p (s.sequence op) pos = some lvl → s.pin p = knownLevel lvl

/-- Before the first primitive nothing has been driven. -/
theorem levelsBefore_zero (op : Operation) (s : State) : LevelsBefore op 0 s := by
  intro p lvl h; cases h

/-- Where no event has been emitted, the levels are as they were. -/
theorem LevelsBefore.emitted_nil {op : Operation} {pos : Nat} {s t : State} (h : LevelsBefore op pos s)
    (r : Emitted s t []) : LevelsBefore op pos t := by
  intro p lvl hd
  rw [r.sequence] at hd
  rw [r.pin, lineAfter_nil]
  exact h p lvl hd

/-- A primitive answered `ok`, or one of BusyWait, takes the levels one position further. -/
theorem LevelsBefore.perform {op : Operation} {pos : Nat} {s : State} {m : Primitive} (h : LevelsBefore op pos s)
    (hm : (s.sequence op)[pos]? = some m)
    (he : m.event s = m.okEvent ∨ m = .pinRead ∨ ∃ n, m = .pollSleep n) :
    LevelsBefore op (pos + 1) (m.perform s) := by
  intro p lvl hd
  rw [(emitted_perform m s).sequence, drivenBefore_succ p hm] at hd
  exact perform_pin_drives he (h p) lvl hd

/-- Past a primitive that drives no line, the levels asked for are the same. -/
theorem levelsBefore_succ_iff {op : Operation} {pos : Nat} {s : State} {m : Primitive}
    (hm : (s.sequence op)[pos]? = some m) (hd : ∀ p o, m.drives p o = o) :
    LevelsBefore op (pos + 1) s ↔ LevelsBefore op pos s := by
  simp only [LevelsBefore, drivenBefore_succ _ hm, hd]

/-! ### A block that stands at a primitive, its pins following the sequence -/

/-- `SEQ` holds the position of a primitive, and the pins follow the sequence up to it. -/
def OnCourse (s : State) : Prop := s.atPrimitive = true ∧ pinsFollow s

theorem atPrimitive_run_iff {s : State} {op : Operation} {pos : Nat} (h : s.seq = .run op pos) :
    s.atPrimitive = true ↔ ∃ m, (s.sequence op)[pos]? = some m := by
  simp [State.atPrimitive, h, List.getElem?_eq_some_iff]

theorem pinsFollow_run_iff {s : State} {op : Operation} {pos : Nat} (h : s.seq = .run op pos) :
    pinsFollow s ↔ LevelsBefore op pos s := by
  constructor
  · intro hf p lvl hd
    exact hf op pos p lvl h hd
  · intro hl op' pos' p lvl hs hd
    obtain ⟨rfl, rfl⟩ := Seq.run.inj (h.symm.trans hs)
    exact hl p lvl hd

/-- Between operations there is nothing to follow. -/
theorem onCourse_of_idle {s : State} (h : s.seq = .idle) : OnCourse s :=
  ⟨by simp [State.atPrimitive, h], fun _ _ _ _ hs _ => by cases h.symm.trans hs⟩

/-- At a release, `SEQ` must stand at a write of a configuration that releases (R90). -/
theorem onCourse_atRelease {v : State} {op : Operation} {pos : Nat} {P : List Byte} (e : BusFault)
    (hm : (v.sequence op)[pos]? = some (.busWrite P)) (hc : v.cfg.csReleaseOnFail = true) :
    OnCourse (v.atRelease op pos e) := by
  have hm' : ((v.atRelease op pos e).sequence op)[pos]? = some (.busWrite P) := hm
  exact ⟨by simp [State.atPrimitive, hm', hc], fun _ _ _ _ hs _ => by cases hs⟩

theorem onCourse_atPosition {v : State} {op : Operation} {pos : Nat} {m : Primitive}
    (hm : (v.sequence op)[pos]? = some m) (hl : LevelsBefore op pos v) : OnCourse (v.atPosition op pos) :=
  ⟨(atPrimitive_run_iff rfl).mpr ⟨m, hm⟩, (pinsFollow_run_iff rfl).mpr (hl.emitted_nil (emitted_atPosition op pos v))⟩

/-- Moving on to a position: the block stands there, or has returned `OK`. -/
theorem onCourse_enter {v : State} {op : Operation} {pos : Nat} (hl : LevelsBefore op pos v) :
    OnCourse (v.enter op pos) := by
  cases hm : (v.sequence op)[pos]? with
  | none => rw [enter_none hm]; exact onCourse_of_idle rfl
  | some m =>
    have ha := emitted_arrive m v
    rw [enter_some hm]
    exact onCourse_atPosition (by rw [ha.sequence]; exact hm) (hl.emitted_nil ha)

theorem onCourse_start (op : Operation) (l : Latches) (s : State) : OnCourse (s.start op l) :=
  onCourse_enter (levelsBefore_zero op _)

/-- However an instruction ends, the block is idle or at the first primitive. -/
theorem onCourse_exec {i : Instr} {s t : State} (h : exec i s = .next t) : OnCourse t := by
  rcases exec_cases h with ⟨op, l, -, -, rfl⟩ | ⟨rfl, -⟩ | ⟨rfl, -, -⟩
  · exact onCourse_start op l s
  · exact onCourse_of_idle rfl
  · exact onCourse_of_idle rfl

/-- The step of a primitive, by where it sends control. The poll sleep leads back over the sample, and neither of
the two drives a line. -/
theorem onCourse_step_of_run {s t : State} {op : Operation} {pos : Nat} (hs : s.seq = .run op pos) (h : OnCourse s)
    (hst : step s = .next t) : OnCourse t := by
  obtain ⟨m, hm⟩ := (atPrimitive_run_iff hs).mp h.1
  have hl : LevelsBefore op pos s := (pinsFollow_run_iff hs).mp h.2
  have r := emitted_perform m s
  rcases step_primitive hs hm hst with ⟨-, he, rfl⟩ | ⟨rfl, -, rfl, hnext⟩ | ⟨rfl, -, rfl, hnext⟩ |
    ⟨k, n, rfl, -, rfl, hk, rfl⟩ | ⟨f, -, rfl⟩ | ⟨P, x, rfl, -, hc, rfl⟩
  · exact onCourse_enter (hl.perform hm (.inl he))
  · exact onCourse_atPosition (by rw [r.sequence]; exact hnext) (hl.perform hm (.inr (.inl rfl)))
  · have hnext' := (r.sequence op).symm ▸ hnext
    exact onCourse_enter ((levelsBefore_succ_iff hnext' fun _ _ => rfl).mpr (hl.perform hm (.inr (.inl rfl))))
  · have hm' := (r.sequence op).symm ▸ hm
    have hk' := (r.sequence op).symm ▸ hk
    have hback := (levelsBefore_succ_iff hm' fun _ _ => rfl).mp (hl.perform hm (.inr (.inr ⟨n, rfl⟩)))
    exact onCourse_atPosition hk' ((levelsBefore_succ_iff hk' fun _ _ => rfl).mp hback)
  · exact onCourse_of_idle rfl
  · exact onCourse_atRelease x (by rw [r.sequence]; exact hm) (by rw [r.cfg]; exact hc)

/-- Every step keeps the block on course. -/
theorem onCourse_step {s t : State} (h : OnCourse s) (hst : step s = .next t) : OnCourse t := by
  rcases step_cases hst with ⟨rfl, -, -⟩ | ⟨op, pos, hs, -⟩ | ⟨op, pos, e, -, rfl⟩ |
    ⟨r, more, -, -, ⟨why, -, rfl⟩ | ⟨i, -, hi⟩⟩
  · exact h
  · exact onCourse_step_of_run hs h hst
  · exact onCourse_of_idle rfl
  · exact onCourse_of_idle rfl
  · exact onCourse_exec hi

/-- Settles O58: the pins are part of what every step keeps of a block on course. -/
theorem pinsFollowTheSequence : Obligations.PinsFollowTheSequence :=
  fun _ _ h hst => onCourse_step h hst

end Sys2Proof.Machine
end

section
/-! PROOFS of the family 10_state.md, part 1: what every step appends to the history, and what it keeps of the
configuration, the sticky bits, the pins and `LAST_RSP` (R26 to R29, R32, R37, R57, R58). -/

namespace Sys2Proof.Machine

/-! ### What a step appends -/

/-- An event of an operation's own: neither a request nor a response. -/
def Event.own (e : Event) : Prop := (∀ w P, e ≠ .req w P) ∧ ∀ c n, e ≠ .rsp c n

/-- From `s` to `t` the block emits `evs`, and its response if that leaves it idle. The pins follow the events, a
response is what `LAST_RSP` then holds, and nothing clears a sticky bit or writes the configuration. -/
structure Emits (s t : State) (evs : List Event) : Prop where
  cfg : t.cfg = s.cfg
  viol : s.viol = true → t.viol = true
  refd : s.refd = true → t.refd = true
  pin : ∀ p, t.pin p = lineAfter p (s.pin p) evs
  outcome : (t.seq ≠ .idle ∧ t.history = s.history ++ evs ∧ t.lastRsp = s.lastRsp) ∨
    ∃ code native, t.seq = .idle ∧ t.history = s.history ++ evs ++ [.rsp code native] ∧
      t.lastRsp = some ⟨code, native, t.phase, t.viol, t.refd⟩

/-- A response emits nothing else, whatever it does to `PHASE` and the latches. -/
theorem emits_returnOk (op : Operation) (v : State) : Emits v (v.returnOk op) [] :=
  ⟨rfl, id, id, fun p => by cases p <;> rfl, .inr ⟨_, _, rfl, by simp [State.returnOk, State.endOperation], rfl⟩⟩

theorem emits_failureEntry (f : Failure) (v : State) : Emits v (v.failureEntry f) [] :=
  ⟨rfl, id, id, fun p => by cases p <;> rfl, .inr ⟨_, _, rfl, by simp [State.failureEntry, State.endOperation], rfl⟩⟩

theorem emits_rejectLength (v : State) : Emits v v.rejectLength [] :=
  ⟨rfl, id, id, fun p => by cases p <;> rfl, .inr ⟨_, _, rfl, by simp [State.rejectLength, State.endOperation], rfl⟩⟩

theorem emits_refuse (v : State) : Emits v v.refuse [] :=
  ⟨rfl, id, fun _ => rfl, fun p => by cases p <;> rfl, .inr ⟨_, _, rfl, by simp [State.refuse], rfl⟩⟩

/-- Beginning an operation emits nothing. -/
theorem emits_start (op : Operation) (l : Latches) (v : State) : Emits v (v.start op l) [] := by
  rw [start_eq]
  exact ⟨rfl, fun h => by simp [h], id, fun p => by cases p <;> rfl, .inl ⟨by simp, by simp, rfl⟩⟩

theorem emits_exec {i : Instr} {v t : State} (h : exec i v = .next t) : Emits v t [] := by
  rcases exec_cases h with ⟨op, l, -, -, rfl⟩ | ⟨rfl, -⟩ | ⟨rfl, -, -⟩
  · exact emits_start op l v
  · exact emits_refuse v
  · exact emits_rejectLength v

/-- Wherever control goes after a primitive, only a response is left to emit. -/
theorem Ends.emits {op : Operation} {v t : State} (h : Ends op v t) : Emits v t [] := by
  cases h with
  | goesOn hne _ e =>
    exact ⟨e.cfg, fun h => e.viol.trans h, fun h => e.refd.trans h, e.pin, .inl ⟨hne, e.history, e.lastRsp⟩⟩
  | returned h => exact h ▸ emits_returnOk op v
  | failed f h => exact h ▸ emits_failureEntry f v

/-- The events before come first. -/
theorem Emitted.emits {s v t : State} {evs : List Event} (r : Emitted s v evs) (h : Emits v t []) :
    Emits s t evs where
  cfg := h.cfg.trans r.cfg
  viol hs := h.viol (r.viol.trans hs)
  refd hs := h.refd (r.refd.trans hs)
  pin p := (h.pin p).trans (r.pin p)
  outcome := by simpa only [r.history, r.lastRsp, List.append_nil] using h.outcome

/-- The `Req` event of an accepted request comes first. -/
theorem emits_accept {s t : State} {r : Request} {more : List Request} (h : Emits (s.accept r more) t []) :
    Emits s t [.req r.word r.payload] where
  cfg := h.cfg
  viol := h.viol
  refd := h.refd
  pin p := (h.pin p).trans (State.accept_pin s r more p)
  outcome := by simpa using h.outcome

/-- Every step but a wait for a request: an idle block emits a `Req`, an operation its own events, and then either
may answer. -/
theorem step_emits {s t : State} (h : step s = .next t) :
    (t = s ∧ s.seq = .idle) ∨ (s.seq = .idle ∧ ∃ w P, Emits s t [.req w P]) ∨
    (s.seq ≠ .idle ∧ ∃ evs, (∀ e ∈ evs, e.own) ∧ Emits s t evs) := by
  have operates : ∀ op, s.operating = some op → ∃ evs, (∀ e ∈ evs, e.own) ∧ Emits s t evs := fun op ho => by
    obtain ⟨v, evs, r, he, -, hown⟩ := operating_step ho h
    exact ⟨evs, hown, r.emits he.emits⟩
  rcases step_cases h with ⟨ht, hs, -⟩ | ⟨op, pos, hs, -⟩ | ⟨op, pos, e, hs, -⟩ |
    ⟨r, more, hs, -, ⟨why, -, rfl⟩ | ⟨i, -, hi⟩⟩
  · exact .inl ⟨ht, hs⟩
  · exact .inr (.inr ⟨by simp [hs], operates op (by simp [State.operating, hs])⟩)
  · exact .inr (.inr ⟨by simp [hs], operates op (by simp [State.operating, hs])⟩)
  · exact .inr (.inl ⟨hs, r.word, r.payload, emits_accept (emits_refuse _)⟩)
  · exact .inr (.inl ⟨hs, r.word, r.payload, emits_accept (emits_exec hi)⟩)

/-- The same for a proof that needs only that no event before the response is a response. -/
theorem step_emits_or_waits {s t : State} (h : step s = .next t) :
    t = s ∨ ∃ evs, (∀ e ∈ evs, ∀ c n, e ≠ .rsp c n) ∧ Emits s t evs := by
  rcases step_emits h with ⟨ht, -⟩ | ⟨-, w, P, he⟩ | ⟨-, evs, hown, he⟩
  · exact .inl ht
  · exact .inr ⟨_, by simp, he⟩
  · exact .inr ⟨evs, fun e h => (hown e h).2, he⟩

/-! ### What every step keeps -/

/-- Settles O49: no update of the state writes the configuration. -/
theorem configurationNeverChanges : Obligations.ConfigurationNeverChanges := by
  intro s t h
  rcases step_emits_or_waits h with rfl | ⟨evs, -, he⟩
  · rfl
  · exact he.cfg

/-- Settles O51: `VIOL` and `REFD` are only ever set. -/
theorem stickyBitsStaySet : Obligations.StickyBitsStaySet := by
  intro s t h
  rcases step_emits_or_waits h with rfl | ⟨evs, -, he⟩
  · exact ⟨id, id⟩
  · exact ⟨he.viol, he.refd⟩

/-- Settles O54: a pin register and its line's history take the same events, and a response is none of them. -/
theorem pinsAreTheHistorysRecord : Obligations.PinsAreTheHistorysRecord := by
  intro s t hpin h p
  rcases step_emits_or_waits h with rfl | ⟨evs, -, he⟩
  · exact hpin p
  · rw [he.pin, hpin]
    rcases he.outcome with ⟨-, hh, -⟩ | ⟨code, native, -, hh, -⟩
    · rw [hh, lineAfter_append]
    · rw [hh, lineAfter_append, lineAfter_append]; rfl

/-- Events none of which is a response hold no responses. -/
theorem responses_eq_nil {evs : List Event} (h : ∀ e ∈ evs, ∀ c n, e ≠ .rsp c n) : responses evs = [] := by
  induction evs with
  | nil => rfl
  | cons e evs ih =>
    have hrest := ih fun x hx => h x (List.mem_cons_of_mem e hx)
    cases e with
    | rsp c n => exact absurd rfl (h _ List.mem_cons_self c n)
    | _ => exact hrest

/-- Settles O55: a step that does not answer adds no response; one that does puts the same response last in the
history and, with the registers' values, in `LAST_RSP`. -/
theorem lastRspIsTheLastResponse : Obligations.LastRspIsTheLastResponse := by
  intro s t ⟨hlast, hcopy⟩ h
  rcases step_emits_or_waits h with rfl | ⟨evs, hevs, he⟩
  · exact ⟨hlast, hcopy⟩
  · rcases he.outcome with ⟨hne, hh, hr⟩ | ⟨code, native, -, hh, hr⟩
    · refine ⟨?_, fun hi => absurd hi hne⟩
      rw [hr, hlast, hh, responses_append, responses_eq_nil hevs, List.append_nil]
    · refine ⟨?_, fun _ r hr' => ?_⟩
      · rw [hr, hh, responses_append]; simp [responses]
      · obtain rfl := Option.some.inj (hr.symm.trans hr')
        exact ⟨rfl, rfl, rfl⟩

/-- An operation's own events stay inside an open bracket. -/
theorem foldl_bracket_own {evs : List Event} (h : ∀ e ∈ evs, e.own) :
    evs.foldl Bracket.next .opened = .opened := by
  induction evs with
  | nil => rfl
  | cons e evs ih =>
    have hrest := ih fun x hx => h x (List.mem_cons_of_mem e hx)
    obtain ⟨hreq, hrsp⟩ := h e List.mem_cons_self
    cases e with
    | req w P => exact absurd rfl (hreq w P)
    | rsp c n => exact absurd rfl (hrsp c n)
    | _ => exact hrest

/-- Events that lead into an open bracket: it stays open exactly where no response follows. -/
theorem Emits.bracket {s t : State} {evs : List Event} (he : Emits s t evs)
    (ho : evs.foldl Bracket.next (bracket s.history) = .opened) :
    bracket t.history = if t.seq = .idle then .closed else .opened := by
  rcases he.outcome with ⟨hne, hh, -⟩ | ⟨code, native, hi, hh, -⟩
  · rw [hh, bracket_append, ho, if_neg hne]
  · rw [hh, bracket_append, bracket_append, ho, if_pos hi]; rfl

/-- Settles O56: `Req` opens a bracket in `IDLE` only, and an operation's own events find it open. -/
theorem requestsAndResponsesBracketEveryEvent : Obligations.RequestsAndResponsesBracketEveryEvent := by
  intro s t hinv h
  rcases step_emits h with ⟨rfl, -⟩ | ⟨hi, w, P, he⟩ | ⟨hne, evs, hown, he⟩
  · exact hinv
  · have hclosed : bracket s.history = .closed := hinv.trans (if_pos hi)
    exact he.bracket (by rw [hclosed]; rfl)
  · have hopen : bracket s.history = .opened := hinv.trans (if_neg hne)
    exact he.bracket (by rw [hopen]; exact foldl_bracket_own hown)

end Sys2Proof.Machine
end

section
/-! PROOFS of the family 10_state.md, part 2: `SEQ` stays at the position of a primitive (R22, R90), and chip-select
is `H` in a configured phase outside the frames of an operation (R36, R163). -/

namespace Sys2Proof.Machine

/-! ### `SEQ` stays at a primitive -/

theorem atPrimitive_atPosition {v : State} {op : Operation} {pos : Nat} {m : Primitive}
    (hm : (v.sequence op)[pos]? = some m) : (v.atPosition op pos).atPrimitive = true :=
  (atPrimitive_run_iff rfl).mpr ⟨m, hm⟩

/-- Moving on, `SEQ` holds the position if the sequence has it, and is idle if not. -/
theorem atPrimitive_enter (op : Operation) (pos : Nat) (v : State) : (v.enter op pos).atPrimitive = true := by
  cases hm : (v.sequence op)[pos]? with
  | none => rw [enter_none hm]; rfl
  | some m => rw [enter_some hm]; exact atPrimitive_atPosition ((emitted_arrive m v).sequence op ▸ hm)

theorem atPrimitive_step_of_run {s t : State} {op : Operation} {pos : Nat} (hs : s.seq = .run op pos)
    (h : s.atPrimitive = true) (hst : step s = .next t) : t.atPrimitive = true := by
  obtain ⟨m, hm⟩ := (atPrimitive_run_iff hs).mp h
  have hseq := (emitted_perform m s).sequence op
  rcases step_primitive hs hm hst with ⟨-, -, rfl⟩ | ⟨rfl, -, rfl, hnext⟩ | ⟨rfl, -, rfl, -⟩ |
    ⟨k, n, rfl, -, rfl, hk, rfl⟩ | ⟨f, -, rfl⟩ | ⟨P, x, rfl, -, hc, rfl⟩
  · exact atPrimitive_enter op _ _
  · exact atPrimitive_atPosition (hseq ▸ hnext)
  · exact atPrimitive_enter op _ _
  · exact atPrimitive_atPosition (hseq ▸ hk)
  · rfl
  · exact (onCourse_atRelease x (hseq ▸ hm) (by rw [(emitted_perform _ s).cfg]; exact hc)).1

/-- Settles O57: an operation moves only to positions its sequence has, to the release of the write it stands at,
or to `IDLE`; an instruction begins at its first. -/
theorem seqHoldsThePositionOfAPrimitive : Obligations.SeqHoldsThePositionOfAPrimitive := by
  intro s t h hst
  rcases step_cases hst with ⟨rfl, -, -⟩ | ⟨op, pos, hs, -⟩ | ⟨op, pos, e, -, rfl⟩ |
    ⟨r, more, -, -, ⟨why, -, rfl⟩ | ⟨i, -, hi⟩⟩
  · exact h
  · exact atPrimitive_step_of_run hs h hst
  · rfl
  · rfl
  · exact (onCourse_exec hi).1

/-! ### Where a sequence leaves chip-select -/

/-- A command with its optional payload leaves chip-select `H`, whatever was driven before it. -/
@[simp] theorem foldl_drives_cs_cmdDataFrame (o : Option Level) (c : Byte) (opt : Option (List Byte)) :
    (cmdDataFrame c opt).foldl (Primitive.drives .CS) o = some .H := by
  cases opt <;> rfl

/-- A whole sequence leaves chip-select `H`; or it never drives it, and then reaches no configured phase that it did
not begin in. -/
theorem sequence_leaves_cs (c : Config) (l : Latches) (op : Operation) :
    (op.primitives c l).foldl (Primitive.drives .CS) none = some .H ∨
      ((op.primitives c l).foldl (Primitive.drives .CS) none = none ∧
        ∀ ph, (op.phaseAfter ph).configured = true → ph.configured = true) := by
  cases op with
  | reset => exact .inr ⟨rfl, fun ph h => by cases h⟩
  | busyWait =>
    refine .inr ⟨rfl, fun ph h => ?_⟩
    simp only [Operation.phaseAfter] at h
    split at h
    · cases h
    · exact h
  | sendCommandData => exact .inl (foldl_drives_cs_cmdDataFrame _ _ _)
  | init =>
    refine .inl ?_
    simp [Operation.primitives, initPrimitives, InitStep.all, InitStep.primitives]
  | _ => exact .inl rfl

/-- Past the end of a sequence nothing more is driven. -/
theorem drivenBefore_of_getElem?_eq_none {p : OutPin} {ms : List Primitive} {pos : Nat} (h : ms[pos]? = none) :
    drivenBefore p ms pos = ms.foldl (Primitive.drives p) none := by
  rw [drivenBefore, List.take_of_length_le (List.getElem?_eq_none_iff.mp h)]

/-! ### Chip-select in a configured phase -/

/-- In a configured phase, chip-select is `H` as long as the primitives before the position have not driven it. -/
def CsHighBefore (op : Operation) (pos : Nat) (s : State) : Prop :=
  s.phase.configured = true → drivenBefore .CS (s.sequence op) pos = none → s.pinCS = .H

/-- In a configured phase, chip-select is `H` in `IDLE` and before an operation drives it. -/
def CsHigh (s : State) : Prop :=
  s.phase.configured = true →
    (s.seq = .idle ∨ ∃ op pos, s.seq = .run op pos ∧ drivenBefore .CS (op.primitives s.cfg s.latches) pos = none) →
    s.pinCS = .H

theorem CsHighBefore.emitted_nil {op : Operation} {pos : Nat} {s t : State} (h : CsHighBefore op pos s)
    (r : Emitted s t []) : CsHighBefore op pos t := by
  intro hph hd
  rw [r.phase] at hph
  rw [r.sequence] at hd
  exact (r.pin .CS).trans (h hph hd)

/-- A primitive that has not driven chip-select leaves it alone, and nothing had driven it before. -/
theorem undriven_of_drives {p : OutPin} {m : Primitive} {o : Option Level} (h : m.drives p o = none) (s : State) :
    o = none ∧ (m.perform s).pin p = s.pin p := by
  rw [(emitted_perform m s).pin]
  cases m with
  | pinSet q lvl =>
    simp only [Primitive.drives] at h
    split at h
    · cases h
    · exact ⟨h, if_neg ‹_›⟩
  | _ => exact ⟨h, rfl⟩

theorem CsHighBefore.perform {op : Operation} {pos : Nat} {s : State} {m : Primitive} (h : CsHighBefore op pos s)
    (hm : (s.sequence op)[pos]? = some m) : CsHighBefore op (pos + 1) (m.perform s) := by
  intro hph hd
  have r := emitted_perform m s
  rw [r.phase] at hph
  rw [r.sequence, drivenBefore_succ _ hm] at hd
  obtain ⟨hd, hpin⟩ := undriven_of_drives hd s
  exact hpin.trans (h hph hd)

theorem csHighBefore_succ_iff {op : Operation} {pos : Nat} {s : State} {m : Primitive}
    (hm : (s.sequence op)[pos]? = some m) (hd : ∀ o, m.drives .CS o = o) :
    CsHighBefore op (pos + 1) s ↔ CsHighBefore op pos s := by
  simp only [CsHighBefore, drivenBefore_succ _ hm, hd]

theorem csHighBefore_of_run {s : State} {op : Operation} {pos : Nat} (hs : s.seq = .run op pos) (h : CsHigh s) :
    CsHighBefore op pos s :=
  fun hph hd => h hph (.inr ⟨op, pos, hs, hd⟩)

theorem CsHighBefore.atPosition {v : State} {op : Operation} {pos : Nat} (h : CsHighBefore op pos v) :
    CsHigh (v.atPosition op pos) := by
  rintro hph (hi | ⟨op', pos', hs, hd⟩)
  · cases hi
  · cases hs; exact h hph hd

/-- After a failure no phase is configured (R142). -/
theorem csHigh_failureEntry (f : Failure) (v : State) : CsHigh (v.failureEntry f) := by
  intro hph; cases hph

/-- Moving on: within the sequence nothing has changed; past its end, either it left chip-select `H`, or it never
drove it and the phase was configured before. -/
theorem CsHighBefore.enter {v : State} {op : Operation} {pos : Nat} (h : CsHighBefore op pos v)
    (hl : LevelsBefore op pos v) : CsHigh (v.enter op pos) := by
  cases hm : (v.sequence op)[pos]? with
  | some m => rw [enter_some hm]; exact (h.emitted_nil (emitted_arrive m v)).atPosition
  | none =>
    rw [enter_none hm]
    intro hph _
    have hend := drivenBefore_of_getElem?_eq_none (p := .CS) hm
    rcases sequence_leaves_cs v.cfg v.latches op with hcs | ⟨hcs, hconf⟩
    · exact hl .CS .H (hend.trans hcs)
    · exact h (hconf _ hph) (hend.trans hcs)

/-- An instruction that begins, or is turned away, leaves `PHASE` and the pins alone. -/
theorem csHigh_exec {i : Instr} {s t : State} (h : exec i s = .next t)
    (hs : s.phase.configured = true → s.pinCS = .H) : CsHigh t := by
  rcases exec_cases h with ⟨op, l, -, -, rfl⟩ | ⟨rfl, -⟩ | ⟨rfl, -, -⟩
  · rw [start_eq]; exact fun hph _ => hs hph
  · exact fun hph _ => hs hph
  · exact fun hph _ => hs hph

theorem csHigh_step_of_run {s t : State} {op : Operation} {pos : Nat} (hs : s.seq = .run op pos) (hc : OnCourse s)
    (h : CsHigh s) (hst : step s = .next t) : CsHigh t := by
  obtain ⟨m, hm⟩ := (atPrimitive_run_iff hs).mp hc.1
  have hl : LevelsBefore op pos s := (pinsFollow_run_iff hs).mp hc.2
  have hseq := (emitted_perform m s).sequence op
  have hb := (csHighBefore_of_run hs h).perform hm
  rcases step_primitive hs hm hst with ⟨-, he, rfl⟩ | ⟨rfl, -, rfl, -⟩ | ⟨rfl, -, rfl, hnext⟩ |
    ⟨k, n, rfl, -, rfl, hk, rfl⟩ | ⟨f, -, rfl⟩ | ⟨P, x, rfl, -, -, rfl⟩
  · exact hb.enter (hl.perform hm (.inl he))
  · exact hb.atPosition
  · have hnext' := hseq.symm ▸ hnext
    exact ((csHighBefore_succ_iff hnext' fun _ => rfl).mpr hb).enter
      ((levelsBefore_succ_iff hnext' fun _ _ => rfl).mpr (hl.perform hm (.inr (.inl rfl))))
  · have hback := (csHighBefore_succ_iff (hseq.symm ▸ hm) fun _ => rfl).mp hb
    exact ((csHighBefore_succ_iff (hseq.symm ▸ hk) fun _ => rfl).mp hback).atPosition
  · exact csHigh_failureEntry f _
  · rintro - (hi | ⟨op', pos', hs', -⟩)
    · cases hi
    · cases hs'

/-- Settles O59: a block on course stays on course, and chip-select stays `H` where the phase is configured. -/
theorem configuredPhaseHasChipSelectHigh : Obligations.ConfiguredPhaseHasChipSelectHigh := by
  intro s t ⟨hat, hfollow, hcs⟩ hst
  obtain ⟨hat', hfollow'⟩ := onCourse_step ⟨hat, hfollow⟩ hst
  refine ⟨hat', hfollow', show CsHigh t from ?_⟩
  rcases step_cases hst with ⟨rfl, -, -⟩ | ⟨op, pos, hs, -⟩ | ⟨op, pos, e, -, rfl⟩ |
    ⟨r, more, hs, -, ⟨why, -, rfl⟩ | ⟨i, -, hi⟩⟩
  · exact hcs
  · exact csHigh_step_of_run hs ⟨hat, hfollow⟩ hcs hst
  · exact csHigh_failureEntry _ _
  · exact fun hph _ => hcs hph (.inl hs)
  · exact csHigh_exec hi fun hph => hcs hph (.inl hs)

end Sys2Proof.Machine
end

section
/-! PROOFS of the family 10_state.md, part 3: the tables of the status registers, the acceptance of a request, and the
one step of an operation (R22, R23, R25, R26, R31, R37). -/

namespace Sys2Proof.Machine

/-! ### The tables -/

/-- Settles O4: both encodings are given row by row. -/
theorem statusEncodingsAreTheTables : Obligations.StatusEncodingsAreTheTables := by
  refine ⟨rfl, rfl, fun ph => ?_, fun c => ?_⟩
  · cases ph <;> decide
  · cases c <;> decide

theorem configured_iff (ph : Phase) :
    ph.configured = true ↔ ph ∈ [Phase.INITIALIZED, .PLANES_STAGED, .REFRESHED] := by
  cases ph <;> decide

/-- Settles O42: the five channel operations share the configured phases, the others have a row each. -/
theorem phaseTableIsTheSpecs : Obligations.PhaseTableIsTheSpecs := by
  refine ⟨fun op hop ph => ?_, fun op hop ph => ?_, fun ph => beq_iff_eq, fun op hop ph => ?_, fun _ => rfl,
    fun _ => rfl, fun _ => rfl, fun _ => rfl, fun _ => rfl⟩
  · rw [← configured_iff]
    simp only [List.mem_cons, List.not_mem_nil, or_false] at hop
    rcases hop with rfl | rfl | rfl | rfl | rfl <;> rfl
  · simp only [List.mem_cons, List.not_mem_nil, or_false] at hop
    rcases hop with rfl | rfl | rfl <;> rfl
  · simp only [List.mem_cons, List.not_mem_nil, or_false] at hop
    rcases hop with rfl | rfl | rfl | rfl <;> rfl

/-- Only INIT leads to `INITIALIZED` (R25). -/
theorem phaseAfter_eq_initialized {op : Operation} {ph : Phase} (h : op.phaseAfter ph = .INITIALIZED) :
    ph = .INITIALIZED ∨ op = .init := by
  cases op with
  | busyWait =>
    simp only [Operation.phaseAfter] at h
    split at h
    · cases h
    · exact .inl h
  | init => exact .inr rfl
  | reset => cases h
  | updatePlane => cases h
  | refresh => cases h
  | _ => exact .inl h

/-! ### The steps of an idle block -/

theorem step_of_no_request {s : State} (hs : s.seq = .idle) (hr : s.requests = []) : step s = .next s := by
  simp [step, hs, hr]

theorem step_of_decoded {s : State} {r : Request} {more : List Request} {i : Instr} (hs : s.seq = .idle)
    (hr : s.requests = r :: more) (hd : decode r = .instr i) : step s = exec i (s.accept r more) := by
  simp [step, hs, hr, hd]

theorem step_of_rejected {s : State} {r : Request} {more : List Request} {why : DecodeError} (hs : s.seq = .idle)
    (hr : s.requests = r :: more) (hd : decode r = .rejected why) : step s = .next (s.accept r more).refuse := by
  simp [step, hs, hr, hd]

/-- Settles O13: the three steps of an idle block; a refusal changes `REFD`, `LAST_RSP` and the history only. -/
theorem stepRunsTheDecodedRequest : Obligations.StepRunsTheDecodedRequest := by
  refine fun s hs => ⟨step_of_no_request hs, fun r more hr => ⟨s.accept r more, rfl, ?_, ?_⟩⟩
  · exact fun i hd => step_of_decoded hs hr hd
  · exact fun why hd => ⟨_, step_of_rejected hs hr hd, endsWith_refuse _, rfl, rfl, rfl, rfl⟩

/-! ### The beginning of an operation -/

/-- The operand latches of a request: its fields and its payload (R70). -/
def latchesOf (r : Request) : Latches :=
  ⟨bField r.word, yField r.word, presField r.word, pselField r.word, r.payload⟩

/-- The latches that each operation loads are those of its request. -/
theorem latchesOf_requestWord (op : BitVec 4) (pres psel : Bool) (y : Half) (b : Byte) (P : List Byte) :
    latchesOf ⟨requestWord op pres psel y b, P⟩ = ⟨b, y, pres, psel, P⟩ := by simp [latchesOf]

/-- How an instruction of `op` ends: it begins `op` with the latches `l`, or is turned away. -/
def BeginsOrTurnedAway (op : Operation) (l : Latches) (s t : State) : Prop :=
  t = s.start op l ∨ t = s.refuse ∨ t = s.rejectLength

theorem BeginsOrTurnedAway.of_latches {op : Operation} {l l' : Latches} {s t : State}
    (h : BeginsOrTurnedAway op l s t) (hl : l' = l) : BeginsOrTurnedAway op l' s t := hl ▸ h

theorem startSend_begins (op : Operation) (l : Latches) (s : State) :
    BeginsOrTurnedAway op l s (s.startSend op l) := by
  unfold State.startSend
  split
  · exact .inl rfl
  · exact .inr (.inl rfl)

theorem startPlane_begins (sel : Plane) (buf : List Byte) (s : State) :
    BeginsOrTurnedAway .updatePlane (Latches.plane sel buf) s (s.startPlane sel buf) := by
  unfold State.startPlane
  split
  · exact .inl rfl
  · split
    · exact .inr (.inr rfl)
    · exact .inr (.inl rfl)

theorem startRaw_begins (c : Byte) (opt : Option (List Byte)) (s : State) :
    BeginsOrTurnedAway (operation.rawOperation opt) (latchesOf (encodeRaw c opt)) s (s.startRaw c opt) := by
  cases opt with
  | none => exact (startSend_begins _ _ s).of_latches (latchesOf_requestWord ..)
  | some P => exact (startSend_begins _ _ s).of_latches (latchesOf_requestWord ..)

/-- Every instruction of an operation begins it with the latches of its own request, or is turned away. -/
theorem exec_begins {i : Instr} {op : Operation} {s t : State} (ho : operation i = some op)
    (h : exec i s = .next t) : BeginsOrTurnedAway op (latchesOf (encode s.cfg.opcodes i)) s t := by
  have begins : ∀ {l l'}, l' = l → BeginsOrTurnedAway op l' s (s.start op l) := fun hl => .inl (by rw [hl])
  cases i with
  | reservedOp rq P => cases ho
  | sendCommand c => cases ho; cases h; exact (startSend_begins _ _ s).of_latches (latchesOf_requestWord ..)
  | sendCommandData c opt =>
    cases ho; cases h
    cases opt with
    | none => exact (startSend_begins _ _ s).of_latches (latchesOf_requestWord ..)
    | some P => exact (startSend_begins _ _ s).of_latches (latchesOf_requestWord ..)
  | sendData P => cases ho; cases h; exact begins (latchesOf_requestWord ..)
  | reset => cases ho; cases h; exact begins (latchesOf_requestWord ..)
  | busyWait => cases ho; cases h; exact begins (latchesOf_requestWord ..)
  | setAddressCounter x y => cases ho; cases h; exact begins (latchesOf_requestWord ..)
  | init => cases ho; cases h; exact begins (latchesOf_requestWord ..)
  | refresh => cases ho; cases h; exact begins (latchesOf_requestWord ..)
  | updatePlane sel buf =>
    cases ho; cases h; exact (startPlane_begins sel buf s).of_latches (latchesOf_requestWord ..)
  | updateBw buf => cases ho; cases h; exact (startPlane_begins .bw buf s).of_latches (latchesOf_requestWord ..)
  | updateRed buf => cases ho; cases h; exact (startPlane_begins .red buf s).of_latches (latchesOf_requestWord ..)
  | _ opt => cases ho; cases h; exact startRaw_begins _ opt s

/-- Settles O14: the start of an operation with its request's latches, or one of the two responses. -/
theorem anOperationBeginsAtItsFirstPrimitive : Obligations.AnOperationBeginsAtItsFirstPrimitive := by
  intro i op s t ho h
  rcases exec_begins ho h with rfl | rfl | rfl
  · exact .inl ⟨encode s.cfg.opcodes i, rfl, start_eq op _ s⟩
  · exact .inr (.inr (endsWith_refuse s))
  · exact .inr (.inl (endsWith_rejectLength s))

/-! ### The step of a primitive -/

/-- Settles O15: the primitive emits its event, and control then goes on with nothing else changed or answers. -/
theorem stepRunsOnePrimitive : Obligations.StepRunsOnePrimitive := by
  intro s op pos m hs hm
  have r := emitted_perform m s
  have he := follow_ends op pos (m.flow s) (m.perform s)
  obtain ⟨hcfg, hreq, -, -, hpin, -⟩ := he.frame
  refine ⟨(m.perform s).follow op pos (m.flow s), by rw [step_run hs, runPrimitive_some hm], hreq.trans r.requests,
    hcfg.trans r.cfg, fun hne => ?_, fun p => (hpin p).trans (r.pin p), fun hne => ?_, fun hi => ?_⟩
  · cases he with
    | goesOn _ _ e => exact e.latches.trans r.latches
    | returned h => exact absurd (by rw [h]; rfl) hne
    | failed f h => exact absurd (by rw [h]; rfl) hne
  · rcases (r.emits he.emits).outcome with ⟨-, hh, -⟩ | ⟨_, _, hi, -⟩
    · exact hh
    · exact absurd hi hne
  · rcases (r.emits he.emits).outcome with ⟨hne, -⟩ | ⟨code, native, -, hh, hr⟩
    · exact absurd hi hne
    · exact ⟨_, hr, by simpa using hh⟩

/-- Moving on to a position: `SEQ` holds it, or is idle past the end of the sequence. -/
theorem enter_seq (op : Operation) (pos : Nat) (v : State) :
    (v.enter op pos).seq = if pos < (v.sequence op).length then .run op pos else .idle := by
  cases hm : (v.sequence op)[pos]? with
  | none => rw [enter_none hm, if_neg (Nat.not_lt.mpr (List.getElem?_eq_none_iff.mp hm))]; rfl
  | some m => rw [enter_some hm, if_pos (List.getElem?_eq_some_iff.mp hm).1]; rfl

/-- Settles O16: `SEQ` after the step is where the primitive's flow sends it. -/
theorem positionMovesAsTheRuleSays : Obligations.PositionMovesAsTheRuleSays := by
  intro s op pos m hs hm next
  have hnext : ∀ n, ((m.perform s).enter op n).seq = next n := fun n => by
    rw [enter_seq, (emitted_perform m s).sequence]; rfl
  refine ⟨(m.perform s).follow op pos (m.flow s), by rw [step_run hs, runPrimitive_some hm], ?_, ?_, ?_, ?_, ?_, ?_,
    ?_, ?_, ?_⟩
  · rintro p lvl rfl
    cases ha : s.pinAnswer 0 with
    | ok => simp only [Primitive.flow, ha]; exact hnext _
    | err e => simp only [Primitive.flow, ha]; rfl
  · rintro P rfl ha
    simp only [Primitive.flow, ha]; exact hnext _
  · rintro P e rfl ha
    cases hc : s.cfg.csReleaseOnFail with
    | true => simp only [Primitive.flow, ha, hc]; rfl
    | false => simp only [Primitive.flow, ha, hc]; rfl
  · rintro ms rfl; exact hnext _
  · rintro rfl ha
    simp only [Primitive.flow, ha]; exact hnext _
  · rintro rfl ha hb
    have hsleep := (sequence_waitsPaired s.cfg s.latches op).after_pinRead hm
    rw [(pinRead_flow_high ha).1 hb]
    exact (hnext _).trans (if_pos (List.getElem?_eq_some_iff.mp hsleep).1)
  · rintro rfl ha hb
    rw [(pinRead_flow_high ha).2 hb]; rfl
  · rintro e rfl ha
    simp only [Primitive.flow, ha]; rfl
  · rintro ms rfl; rfl

/-- Moving on within a sequence clears `POLLS` at a sample and nowhere else. -/
theorem enter_polls {v : State} {op : Operation} {pos pos' : Nat} {m : Primitive}
    (hs : (v.enter op pos).seq = .run op pos') (hm : (v.sequence op)[pos']? = some m) :
    pos' = pos ∧ (v.enter op pos).polls = if m = .pinRead then 0 else v.polls := by
  obtain rfl : pos = pos' := by
    rw [enter_seq] at hs
    split at hs
    · exact (Seq.run.inj hs).2
    · cases hs
  refine ⟨rfl, ?_⟩
  rw [enter_some hm]
  cases m <;> rfl

/-- A sample that is not a failure is counted. -/
theorem perform_pinRead_polls {s : State} {lvl : Level}
    (h : Primitive.event s .pinRead = .sample (.ok lvl)) : (Primitive.perform s .pinRead).polls = s.polls + 1 :=
  readBusy_polls (Event.sample.inj h)

/-- Settles O18: by where the primitive sends control; only a wait's own sleep leads back. -/
theorem pollsCountsTheSamplesOfAWait : Obligations.PollsCountsTheSamplesOfAWait := by
  intro s t op pos pos' m m' hs hm hst ht hm'
  have hseq := (emitted_perform m s).sequence op
  rcases step_primitive hs hm hst with ⟨hstr, -, rfl⟩ | ⟨rfl, he, rfl, hnext⟩ | ⟨rfl, he, rfl, -⟩ |
    ⟨k, n, rfl, -, rfl, hk, rfl⟩ | ⟨f, -, rfl⟩ | ⟨P, x, rfl, -, -, rfl⟩
  · obtain ⟨rfl, hp⟩ := enter_polls ht (by rw [hseq]; exact hm')
    have hne : m ≠ .pinRead := by rintro rfl; cases hstr
    simp [hp, hne, perform_polls hne]
  · cases ht
    have : m' = .pollSleep s.cfg.tPollMs := Option.some.inj (hm'.symm.trans hnext)
    simp [this, perform_pinRead_polls he]
  · obtain ⟨rfl, hp⟩ := enter_polls ht (by rw [hseq]; exact hm')
    simp [hp, perform_pinRead_polls he]
  · cases ht
    simp [perform_polls]
  · cases ht
  · cases ht

/-! ### `PHASE` and `VIOL` -/

/-- Settles O43: an instruction only checks the phase; a step of the operation sets `PHASE` with its response. -/
theorem phaseAndViolFollowTheTable : Obligations.PhaseAndViolFollowTheTable := by
  refine ⟨fun i op s t ho h => ?_, fun s t op ho h => ?_⟩
  · rcases exec_begins ho h with rfl | rfl | rfl
    · rw [start_eq]; exact ⟨rfl, fun _ => rfl, fun hi => by cases hi⟩
    · exact ⟨rfl, fun hne => absurd rfl hne, fun _ => rfl⟩
    · exact ⟨rfl, fun hne => absurd rfl hne, fun _ => rfl⟩
  · obtain ⟨-, -, hviol, -, hgo⟩ := operating_frame ho h
    obtain ⟨v, evs, r, he, -⟩ := operating_step ho h
    refine ⟨hviol, fun hne => (hgo hne).2, fun rsp hi hrsp => ?_⟩
    cases he with
    | goesOn hne _ _ => exact absurd hi hne
    | returned ht =>
      subst ht; cases hrsp
      exact congrArg op.phaseAfter r.phase
    | failed f ht =>
      subst ht; cases hrsp
      cases f <;> rfl

/-- Settles O53: a step that begins an operation leaves `PHASE`, a failure leaves `FAULTED`, and of the operations
that return `OK` only INIT leads to `INITIALIZED`. -/
theorem onlyInitReachesInitialized : Obligations.OnlyInitReachesInitialized := by
  intro s t h ht
  have operates : ∀ op, s.operating = some op → s.phase = .INITIALIZED ∨ s.operating = some .init := by
    intro op ho
    obtain ⟨v, evs, r, he, -⟩ := operating_step ho h
    cases he with
    | goesOn _ _ e => exact .inl (r.phase.symm.trans (e.phase.symm.trans ht))
    | returned hret =>
      subst hret
      rcases phaseAfter_eq_initialized ht with hph | rfl
      · exact .inl (r.phase.symm.trans hph)
      · exact .inr ho
    | failed f hf => subst hf; cases ht
  rcases step_cases h with ⟨rfl, -, -⟩ | ⟨op, pos, hs, -⟩ | ⟨op, pos, e, hs, -⟩ |
    ⟨r, more, -, -, ⟨why, -, rfl⟩ | ⟨i, -, hi⟩⟩
  · exact .inl ht
  · exact operates op (by simp [State.operating, hs])
  · exact operates op (by simp [State.operating, hs])
  · exact .inl ht
  · rcases exec_cases hi with ⟨op, l, -, -, rfl⟩ | ⟨rfl, -⟩ | ⟨rfl, -, -⟩
    · rw [start_eq] at ht; exact .inl ht
    · exact .inl ht
    · exact .inl ht

end Sys2Proof.Machine
end

section
/-! PROOFS of the family 10_state.md, part 4: `VIOL` and the pin registers decide nothing (R26, R29). Every operation
over the state takes two states that differ at most in them to two such states. -/

namespace Sys2Proof.Machine

/-! ### States that differ at most in `VIOL`, the pins and `LAST_RSP`'s copy of `VIOL` -/

/-- `s` with other values of `VIOL`, of the three pin registers and of `LAST_RSP`. -/
def relabelled (s : State) (v : Bool) (cs dc rst : PinLevel) (l : Option Response) : State :=
  { s with viol := v, pinCS := cs, pinDC := dc, pinRST := rst, lastRsp := l }

/-- What `LAST_RSP` holds beside its copy of `VIOL`. -/
def Response.withoutViol (r : Response) : RspCode × Option Native × Phase × Bool := (r.code, r.native, r.phase, r.refd)

theorem sameButViolAndPins_iff (s s' : State) : sameButViolAndPins s s' ↔
    ∃ v cs dc rst l, s' = relabelled s v cs dc rst l ∧
      l.map Response.withoutViol = s.lastRsp.map Response.withoutViol := by
  constructor
  · rintro ⟨hs, hl⟩
    exact ⟨s'.viol, s'.pinCS, s'.pinDC, s'.pinRST, s'.lastRsp, hs, hl⟩
  · rintro ⟨v, cs, dc, rst, l, rfl, hl⟩
    exact ⟨rfl, hl⟩

/-- To show that an update keeps two states the same, it is enough to look at the relabellings of the first. -/
theorem same_update {s s' : State} {f : State → State} (h : sameButViolAndPins s s')
    (hf : ∀ v cs dc rst l, l.map Response.withoutViol = s.lastRsp.map Response.withoutViol →
      sameButViolAndPins (f s) (f (relabelled s v cs dc rst l))) : sameButViolAndPins (f s) (f s') := by
  obtain ⟨v, cs, dc, rst, l, rfl, hl⟩ := (sameButViolAndPins_iff s s').mp h
  exact hf v cs dc rst l hl

/-! ### The operations over the state -/

section Same

variable {s s' : State} (h : sameButViolAndPins s s')
include h

theorem same_seq : s'.seq = s.seq := by rw [h.1]
theorem same_requests : s'.requests = s.requests := by rw [h.1]
theorem same_sequence (op : Operation) : s'.sequence op = s.sequence op := by rw [h.1]; rfl
theorem same_busyAnswer (k : Nat) : s'.busyAnswer k = s.busyAnswer k := by rw [h.1]; rfl

/-- The ends of an operation: `LAST_RSP` is set anew, from registers that are the same. -/
theorem same_returnOk (op : Operation) : sameButViolAndPins (s.returnOk op) (s'.returnOk op) :=
  same_update (f := State.returnOk op) h fun _ _ _ _ _ _ => ⟨rfl, rfl⟩

theorem same_failureEntry (f : Failure) : sameButViolAndPins (s.failureEntry f) (s'.failureEntry f) :=
  same_update (f := State.failureEntry f) h fun _ _ _ _ _ _ => ⟨rfl, rfl⟩

theorem same_refuse : sameButViolAndPins s.refuse s'.refuse :=
  same_update (f := State.refuse) h fun _ _ _ _ _ _ => ⟨rfl, rfl⟩

theorem same_rejectLength : sameButViolAndPins s.rejectLength s'.rejectLength :=
  same_update (f := State.rejectLength) h fun _ _ _ _ _ _ => ⟨rfl, rfl⟩

theorem same_accept (r : Request) (more : List Request) :
    sameButViolAndPins (s.accept r more) (s'.accept r more) :=
  same_update (f := State.accept r more) h fun _ _ _ _ _ hl => ⟨rfl, hl⟩

theorem same_driveLine (p : OutPin) (lvl : Level) : sameButViolAndPins (s.driveLine p lvl) (s'.driveLine p lvl) :=
  same_update (f := State.driveLine p lvl) h fun _ _ _ _ _ hl => by cases p <;> exact ⟨rfl, hl⟩

theorem same_readBusy : sameButViolAndPins s.readBusy s'.readBusy := by
  have ha := same_busyAnswer h 0
  cases hb : s.busyAnswer 0 with
  | ok lvl =>
    rw [State.readBusy_ok s hb, State.readBusy_ok s' (ha.trans hb)]
    exact same_update (f := fun s => s.sampleBusy.countPoll) h fun _ _ _ _ _ hl => ⟨rfl, hl⟩
  | err e =>
    rw [State.readBusy_err s hb, State.readBusy_err s' (ha.trans hb)]
    exact same_update (f := State.sampleBusy) h fun _ _ _ _ _ hl => ⟨rfl, hl⟩

/-- A primitive takes the same answer and records it in the same way. -/
theorem same_perform (m : Primitive) : sameButViolAndPins (m.perform s) (m.perform s') := by
  cases m with
  | pinSet p lvl => exact same_driveLine h p lvl
  | pinRead => exact same_readBusy h
  | busWrite P => exact same_update (f := State.writeBus P) h fun _ _ _ _ _ hl => ⟨rfl, hl⟩
  | sleep ms => exact same_update (f := State.emit (.sleep ms)) h fun _ _ _ _ _ hl => ⟨rfl, hl⟩
  | pollSleep ms => exact same_update (f := State.emit (.sleep ms)) h fun _ _ _ _ _ hl => ⟨rfl, hl⟩

/-- Where a primitive sends control is decided by the answers, the configuration and `POLLS`. -/
theorem same_flow (m : Primitive) : m.flow s' = m.flow s := by
  have hbound : s'.readBusy.pollBoundReached = s.readBusy.pollBoundReached := by
    rw [(same_readBusy h).1]; rfl
  cases m with
  | pinRead => simp only [Primitive.flow, hbound, same_busyAnswer h]
  | _ => rw [h.1]; rfl

theorem same_enter (op : Operation) (pos : Nat) : sameButViolAndPins (s.enter op pos) (s'.enter op pos) := by
  have hseq := same_sequence h op
  cases hm : (s.sequence op)[pos]? with
  | none =>
    rw [enter_none hm, enter_none (hseq ▸ hm)]
    exact same_returnOk h op
  | some m =>
    rw [enter_some hm, enter_some (hseq ▸ hm)]
    exact same_update (f := fun s => (m.arrive s).atPosition op pos) h
      fun _ _ _ _ _ hl => by cases m <;> exact ⟨rfl, hl⟩

theorem same_follow (op : Operation) (pos : Nat) (f : Flow) :
    sameButViolAndPins (s.follow op pos f) (s'.follow op pos f) := by
  cases f with
  | advance => exact same_enter h op (pos + 1)
  | leaveWait => exact same_enter h op (pos + 2)
  | repeatWait => exact same_update (f := State.atPosition op (pos - 1)) h fun _ _ _ _ _ hl => ⟨rfl, hl⟩
  | fail f => exact same_failureEntry h f
  | release e => exact same_update (f := State.atRelease op pos e) h fun _ _ _ _ _ hl => ⟨rfl, hl⟩

theorem same_runPrimitive (op : Operation) (pos : Nat) :
    sameButViolAndPins (s.runPrimitive op pos) (s'.runPrimitive op pos) := by
  have hseq := same_sequence h op
  cases hm : (s.sequence op)[pos]? with
  | none =>
    rw [runPrimitive_none hm, runPrimitive_none (hseq ▸ hm)]
    exact same_returnOk h op
  | some m =>
    rw [runPrimitive_some hm, runPrimitive_some (hseq ▸ hm), same_flow h]
    exact same_follow (same_perform h m) op pos _

theorem same_runRelease (e : BusFault) : sameButViolAndPins (s.runRelease e) (s'.runRelease e) :=
  same_failureEntry (same_driveLine h .CS .H) (.bus e)

/-! ### Instructions -/

theorem same_start (op : Operation) (l : Latches) : sameButViolAndPins (s.start op l) (s'.start op l) :=
  same_enter (same_update (f := begun op l) h fun _ _ _ _ _ hl => ⟨rfl, hl⟩) op 0

theorem same_startSend (op : Operation) (l : Latches) :
    sameButViolAndPins (s.startSend op l) (s'.startSend op l) := by
  have hcfg : s'.cfg = s.cfg := by rw [h.1]
  unfold State.startSend
  rw [hcfg]
  split
  · exact same_start h op l
  · exact same_refuse h

theorem same_startRaw (c : Byte) (opt : Option (List Byte)) :
    sameButViolAndPins (s.startRaw c opt) (s'.startRaw c opt) := by
  cases opt with
  | none => exact same_startSend h _ _
  | some P => exact same_startSend h _ _

theorem same_startPlane (sel : Plane) (buf : List Byte) :
    sameButViolAndPins (s.startPlane sel buf) (s'.startPlane sel buf) := by
  have hcfg : s'.cfg = s.cfg := by rw [h.1]
  unfold State.startPlane
  rw [hcfg]
  split
  · exact same_start h _ _
  · split
    · exact same_rejectLength h
    · exact same_refuse h

end Same

/-- An instruction does the same in both states. -/
theorem same_exec {s s' t : State} {i : Instr} (h : sameButViolAndPins s s') (hi : exec i s = .next t) :
    ∃ t', exec i s' = .next t' ∧ sameButViolAndPins t t' := by
  obtain ⟨v, cs, dc, rst, l, rfl, -⟩ := (sameButViolAndPins_iff s s').mp h
  cases i with
  | sendCommand c => cases hi; exact ⟨_, rfl, same_startSend h _ _⟩
  | sendCommandData c opt => cases hi; exact ⟨_, rfl, same_startSend h _ _⟩
  | updatePlane sel buf => cases hi; exact ⟨_, rfl, same_startPlane h sel buf⟩
  | updateBw buf => cases hi; exact ⟨_, rfl, same_startPlane h .bw buf⟩
  | updateRed buf => cases hi; exact ⟨_, rfl, same_startPlane h .red buf⟩
  | reservedOp rq P => cases hi; exact ⟨_, rfl, same_refuse h⟩
  | sendData P => cases hi; exact ⟨_, rfl, same_start h _ _⟩
  | reset => cases hi; exact ⟨_, rfl, same_start h _ _⟩
  | busyWait => cases hi; exact ⟨_, rfl, same_start h _ _⟩
  | setAddressCounter x y => cases hi; exact ⟨_, rfl, same_start h _ _⟩
  | init => cases hi; exact ⟨_, rfl, same_start h _ _⟩
  | refresh => cases hi; exact ⟨_, rfl, same_start h _ _⟩
  | _ opt => cases hi; exact ⟨_, rfl, same_startRaw h _ opt⟩

/-- Settles O52: two such states hold the same `SEQ` and the same requests, so both take the same kind of step, and
each kind keeps them the same. -/
theorem violAndPinRegistersDecideNothing : Obligations.ViolAndPinRegistersDecideNothing := by
  intro s s' t h hst
  have hseq := same_seq h
  have hreq := same_requests h
  rcases step_cases hst with ⟨rfl, hs, hr⟩ | ⟨op, pos, hs, rfl⟩ | ⟨op, pos, e, hs, rfl⟩ |
    ⟨r, more, hs, hr, ⟨why, hd, rfl⟩ | ⟨i, hd, hi⟩⟩
  · exact ⟨s', step_of_no_request (hseq.trans hs) (hreq.trans hr), h⟩
  · exact ⟨_, step_run (hseq.trans hs), same_runPrimitive h op pos⟩
  · exact ⟨_, step_release (hseq.trans hs), same_runRelease h e⟩
  · exact ⟨_, step_of_rejected (hseq.trans hs) (hreq.trans hr) hd, same_refuse (same_accept h r more)⟩
  · rw [step_of_decoded (hseq.trans hs) (hreq.trans hr) hd]
    exact same_exec (same_accept h r more) hi

end Sys2Proof.Machine
end

section
/-! PROOFS of the family 20_memory.md: the history only grows (R13, R57), and every bus write is sent inside a frame
(R54, R75, R76). -/

namespace Sys2Proof.Machine

/-! ### The history -/

/-- Settles O50: a step that emits puts its events, and then its response, after the history. -/
theorem historyOnlyGrows : Obligations.HistoryOnlyGrows := by
  intro s t h
  rcases step_emits_or_waits h with rfl | ⟨evs, -, he⟩
  · exact List.prefix_rfl
  · rcases he.outcome with ⟨-, hh, -⟩ | ⟨code, native, -, hh, -⟩
    · rw [hh]; exact List.prefix_append _ _
    · rw [hh, List.append_assoc]; exact List.prefix_append _ _

/-! ### The writes of a sequence -/

/-- The last level asked for on a line: by these primitives, or by those before them. -/
theorem foldl_drives_eq_or (p : OutPin) (ms : List Primitive) : ∀ o : Option Level,
    ms.foldl (Primitive.drives p) o = (ms.foldl (Primitive.drives p) none).or o := by
  induction ms with
  | nil => intro o; rfl
  | cons m ms ih =>
    intro o
    have hm : m.drives p o = (m.drives p none).or o := by
      cases m with
      | pinSet q lvl => by_cases hq : q = p <;> simp [Primitive.drives, hq]
      | _ => rfl
    rw [List.foldl_cons, List.foldl_cons, ih, ih (m.drives p none), hm, Option.or_assoc]

/-- Behind other primitives, a line is at the level that the later ones drove. -/
theorem drivenBefore_append_right {p : OutPin} {a b : List Primitive} {pos : Nat} {lvl : Level}
    (h : drivenBefore p b pos = some lvl) : drivenBefore p (a ++ b) (a.length + pos) = some lvl := by
  unfold drivenBefore at h ⊢
  rw [List.take_length_add_append, List.foldl_append, foldl_drives_eq_or, h]; rfl

/-- Before other primitives, nothing that they drive counts. -/
theorem drivenBefore_append_left (p : OutPin) {a : List Primitive} (b : List Primitive) {pos : Nat}
    (h : pos ≤ a.length) : drivenBefore p (a ++ b) pos = drivenBefore p a pos := by
  rw [drivenBefore, List.take_append_of_le_length h, drivenBefore]

/-- A write at a position is inside a frame: CS has been driven `L`, and DC `L` for one byte of the command set, or
`H` for data (R73 to R76). -/
def WriteFramed (t : Opcodes) (ms : List Primitive) (pos : Nat) (P : List Byte) : Prop :=
  drivenBefore .CS ms pos = some .L ∧
    ((drivenBefore .DC ms pos = some .L ∧ ∃ c, P = [t.byte c]) ∨ drivenBefore .DC ms pos = some .H)

/-- Every write of a sequence is inside a frame. -/
def WritesFramed (t : Opcodes) (ms : List Primitive) : Prop :=
  ∀ pos P, ms[pos]? = some (.busWrite P) → WriteFramed t ms pos P

section Framing

variable {t : Opcodes}

/-- Sequences without a write have none to frame. -/
theorem writesFramed_of_no_write {ms : List Primitive} (h : ∀ P, .busWrite P ∉ ms) : WritesFramed t ms :=
  fun _ P hm => absurd (List.mem_of_getElem? hm) (h P)

theorem WritesFramed.append {a b : List Primitive} (ha : WritesFramed t a) (hb : WritesFramed t b) :
    WritesFramed t (a ++ b) := by
  intro pos P hm
  by_cases hlt : pos < a.length
  · rw [List.getElem?_append_left hlt] at hm
    have h := ha pos P hm
    simpa only [WriteFramed, drivenBefore_append_left _ b hlt.le] using h
  · obtain ⟨k, rfl⟩ := Nat.exists_eq_add_of_le (Nat.le_of_not_lt hlt)
    rw [List.getElem?_append_right (Nat.le_add_right _ _), Nat.add_sub_cancel_left] at hm
    obtain ⟨hcs, hdc⟩ := hb k P hm
    exact ⟨drivenBefore_append_right hcs,
      hdc.imp (fun ⟨hl, hc⟩ => ⟨drivenBefore_append_right hl, hc⟩) drivenBefore_append_right⟩

theorem writesFramed_flatMap {α : Type} {f : α → List Primitive} {ks : List α}
    (h : ∀ k ∈ ks, WritesFramed t (f k)) : WritesFramed t (ks.flatMap f) := by
  induction ks with
  | nil => exact writesFramed_of_no_write (by simp)
  | cons k ks ih =>
    exact (h k List.mem_cons_self).append (ih fun x hx => h x (List.mem_cons_of_mem k hx))

/-! ### The frames -/

/-- The one write of a frame is its third primitive. -/
theorem write_of_frame {lvl : Level} {P Q : List Byte} {pos : Nat}
    (h : [Primitive.pinSet .DC lvl, .pinSet .CS .L, .busWrite P, .pinSet .CS .H][pos]? = some (.busWrite Q)) :
    pos = 2 ∧ Q = P := by
  match pos with
  | 0 | 1 | 3 | _ + 4 => simp at h
  | 2 => simpa [eq_comm] using h

theorem cmdFrame_writesFramed (c : Command) : WritesFramed t (cmdFrame (t.byte c)) := by
  intro pos Q h
  obtain ⟨rfl, rfl⟩ := write_of_frame h
  exact ⟨rfl, .inl ⟨rfl, c, rfl⟩⟩

theorem dataFrame_writesFramed (P : List Byte) : WritesFramed t (dataFrame P) := by
  intro pos Q h
  obtain ⟨rfl, -⟩ := write_of_frame h
  exact ⟨rfl, .inr rfl⟩

theorem cmdDataFrame_writesFramed (c : Command) (opt : Option (List Byte)) :
    WritesFramed t (cmdDataFrame (t.byte c) opt) := by
  cases opt with
  | none => exact cmdFrame_writesFramed c
  | some P => exact (cmdFrame_writesFramed c).append (dataFrame_writesFramed P)

theorem setAddressCounter_writesFramed (x : Byte) (y : Half) : WritesFramed t (setAddressCounter t x y) :=
  (cmdDataFrame_writesFramed .ramXCounter _).append (cmdDataFrame_writesFramed .ramYCounter _)

theorem resetPulse_writesFramed (c : Config) : WritesFramed t (resetPulse c) :=
  writesFramed_of_no_write (by simp [resetPulse])

theorem busyWait_writesFramed (c : Config) : WritesFramed t (busyWait c) :=
  writesFramed_of_no_write (by simp [busyWait])

end Framing

theorem initStep_writesFramed (c : Config) (k : InitStep) : WritesFramed c.opcodes (k.primitives c) := by
  cases k with
  | S1 => exact resetPulse_writesFramed c
  | S2 => exact busyWait_writesFramed c
  | S3 => exact cmdFrame_writesFramed .swReset
  | S4 => exact busyWait_writesFramed c
  | S5 => exact cmdDataFrame_writesFramed .driverOutputControl (some _)
  | S6 => exact cmdDataFrame_writesFramed .dataEntryMode (some _)
  | S7 => exact cmdDataFrame_writesFramed .ramXWindow (some _)
  | S8 => exact cmdDataFrame_writesFramed .ramYWindow (some _)
  | S9 => exact cmdDataFrame_writesFramed .borderWaveform _
  | S10 => exact cmdDataFrame_writesFramed .duc1 _
  | S11 => exact cmdDataFrame_writesFramed .duc2 _

/-- The command set is the thirteen bytes (R69, R76). -/
theorem holds_iff (t : Opcodes) (b : Byte) : t.holds b = true ↔ ∃ c, b = t.byte c := by
  have hall : ∀ c, c ∈ Command.all := fun c => by cases c <;> decide
  simp [Opcodes.holds, Opcodes.bytes, hall, eq_comm]

/-- The byte that a plane is sent with is one of the two RAM writes (R71). -/
theorem planeOpcode_eq_byte (l : Latches) (t : Opcodes) : ∃ c, l.planeOpcode t = t.byte c := by
  unfold Latches.planeOpcode
  cases planeOf l.psel with
  | bw => exact ⟨.writeRamBw, rfl⟩
  | red => exact ⟨.writeRamRed, rfl⟩

/-- A raw send has a byte of the command set in its latch (R69). -/
def SendsInSet (c : Config) (l : Latches) (op : Operation) : Prop :=
  op = .sendCommand ∨ op = .sendCommandData → c.opcodes.holds l.b = true

/-- Every write of every operation is inside a frame. -/
theorem sequence_writesFramed {c : Config} {l : Latches} {op : Operation} (h : SendsInSet c l op) :
    WritesFramed c.opcodes (op.primitives c l) := by
  cases op with
  | sendCommand =>
    obtain ⟨k, hk⟩ := (holds_iff _ _).mp (h (.inl rfl))
    show WritesFramed _ (cmdFrame l.b)
    rw [hk]; exact cmdFrame_writesFramed k
  | sendCommandData =>
    obtain ⟨k, hk⟩ := (holds_iff _ _).mp (h (.inr rfl))
    show WritesFramed _ (cmdDataFrame l.b l.payload)
    rw [hk]; exact cmdDataFrame_writesFramed k _
  | sendData => exact dataFrame_writesFramed l.p
  | reset => exact resetPulse_writesFramed c
  | busyWait => exact busyWait_writesFramed c
  | setAddressCounter => exact setAddressCounter_writesFramed l.b l.y
  | init => exact writesFramed_flatMap fun k _ => initStep_writesFramed c k
  | updatePlane =>
    obtain ⟨k, hk⟩ := planeOpcode_eq_byte l c.opcodes
    refine (setAddressCounter_writesFramed _ _).append ?_
    rw [hk]; exact cmdDataFrame_writesFramed k _
  | refresh => exact (cmdFrame_writesFramed .masterActivation).append (busyWait_writesFramed c)

/-! ### The latch of a raw send -/

/-- The operation the block stands in, if any, is no raw send of a byte outside the command set. -/
def OperatesInSet (s : State) : Prop := ∀ op, s.operating = some op → SendsInSet s.cfg s.latches op

theorem operatesInSet_iff (s : State) : OperatesInSet s ↔
    (s.operating = some .sendCommand ∨ s.operating = some .sendCommandData →
      s.cfg.opcodes.holds s.latches.b = true) := by
  constructor
  · rintro h (ho | ho)
    · exact h _ ho (.inl rfl)
    · exact h _ ho (.inr rfl)
  · rintro h op ho (rfl | rfl)
    · exact h (.inl ho)
    · exact h (.inr ho)

/-- A block that has answered stands in no operation. -/
theorem operatesInSet_of_idle {s : State} (h : s.seq = .idle) : OperatesInSet s := by
  intro op ho
  simp [State.operating, h] at ho

/-- An operation keeps its latches until it answers. -/
theorem operatesInSet_step_of_operating {s t : State} {op : Operation} (ho : s.operating = some op)
    (h : OperatesInSet s) (hst : step s = .next t) : OperatesInSet t := by
  obtain ⟨v, evs, r, he, -⟩ := operating_step ho hst
  cases he with
  | goesOn _ hop e =>
    intro op' ho'
    obtain rfl := Option.some.inj (hop.symm.trans ho')
    rw [e.cfg, e.latches, r.cfg, r.latches]
    exact h op ho
  | returned ht => exact operatesInSet_of_idle (by rw [ht]; rfl)
  | failed f ht => exact operatesInSet_of_idle (by rw [ht]; rfl)

/-- A raw send begins only with a byte of the command set. -/
theorem operatesInSet_exec {i : Instr} {s t : State} (h : exec i s = .next t) : OperatesInSet t := by
  rcases exec_cases h with ⟨op, l, -, hl, rfl⟩ | ⟨rfl, -⟩ | ⟨rfl, -, -⟩
  · rw [start_eq]
    intro op' ho
    obtain rfl := Option.some.inj ho
    exact hl
  · exact operatesInSet_of_idle rfl
  · exact operatesInSet_of_idle rfl

theorem operatesInSet_step {s t : State} (h : OperatesInSet s) (hst : step s = .next t) : OperatesInSet t := by
  rcases step_cases hst with ⟨rfl, -, -⟩ | ⟨op, pos, hs, -⟩ | ⟨op, pos, e, hs, -⟩ |
    ⟨r, more, -, -, ⟨why, -, rfl⟩ | ⟨i, -, hi⟩⟩
  · exact h
  · exact operatesInSet_step_of_operating (op := op) (by simp [State.operating, hs]) h hst
  · exact operatesInSet_step_of_operating (op := op) (by simp [State.operating, hs]) h hst
  · exact operatesInSet_of_idle rfl
  · exact operatesInSet_exec hi

/-! ### The transactions of a step -/

/-- Every pin register is the level the history leaves on its line (R29). -/
def PinsRecorded (s : State) : Prop := ∀ p, s.pin p = lineAfter p .U s.history

/-- The emitted events are sent under the pins of the block; a response adds no transaction. -/
theorem Emits.transactions {s t : State} {evs : List Event} (he : Emits s t evs) (hp : PinsRecorded s) :
    transactions .U .U t.history = transactions .U .U s.history ++ transactions s.pinDC s.pinCS evs := by
  have hdc : s.pinDC = lineAfter .DC .U s.history := hp .DC
  have hcs : s.pinCS = lineAfter .CS .U s.history := hp .CS
  rcases he.outcome with ⟨-, hh, -⟩ | ⟨code, native, -, hh, -⟩
  · rw [hh, transactions_append, hdc, hcs]
  · rw [hh, transactions_append, transactions_append, hdc, hcs]
    exact List.append_nil _

/-- Only a write is a transaction. -/
theorem transactions_event {s : State} {m : Primitive} {dc cs : PinLevel} {w : Transaction}
    (h : w ∈ transactions dc cs [m.event s]) : ∃ P, m = .busWrite P ∧ w = ⟨dc, cs, P⟩ := by
  cases m with
  | busWrite P => exact ⟨P, rfl, List.mem_singleton.mp h⟩
  | _ => cases h

/-- A transaction that a step adds is the write at which the block stands, under the block's pins. -/
theorem step_transactions {s t : State} (hat : s.atPrimitive = true) (hp : PinsRecorded s) (hst : step s = .next t)
    {w : Transaction} (hw : w ∈ transactions .U .U t.history) :
    w ∈ transactions .U .U s.history ∨ ∃ op pos P, s.seq = .run op pos ∧
      (s.sequence op)[pos]? = some (.busWrite P) ∧ w = ⟨s.pinDC, s.pinCS, P⟩ := by
  have silent : ∀ {evs}, Emits s t evs → transactions s.pinDC s.pinCS evs = [] →
      w ∈ transactions .U .U s.history := fun he h0 => by
    rwa [he.transactions hp, h0, List.append_nil] at hw
  rcases step_cases hst with ⟨rfl, -, -⟩ | ⟨op, pos, hs, rfl⟩ | ⟨op, pos, e, -, rfl⟩ |
    ⟨r, more, -, -, ⟨why, -, rfl⟩ | ⟨i, -, hi⟩⟩
  · exact .inl hw
  · obtain ⟨m, hm⟩ := (atPrimitive_run_iff hs).mp hat
    rw [runPrimitive_some hm] at hw
    have he := (emitted_perform m s).emits (follow_ends op pos (m.flow s) _).emits
    rw [he.transactions hp] at hw
    refine (List.mem_append.mp hw).imp_right fun hnew => ?_
    obtain ⟨P, rfl, rfl⟩ := transactions_event hnew
    exact ⟨op, pos, P, hs, hm, rfl⟩
  · exact .inl (silent ((emitted_driveLine .CS .H s).emits (emits_failureEntry (.bus e) _)) rfl)
  · exact .inl (silent (emits_accept (emits_refuse _)) rfl)
  · exact .inl (silent (emits_accept (emits_exec hi)) rfl)

/-- What R54, R75 and R76 say of one transaction. -/
def Transaction.Framed (t : Opcodes) (w : Transaction) : Prop :=
  w.cs = .L ∧ ((w.dc = .L ∧ ∃ c : Command, w.bytes = [t.byte c]) ∨ w.dc = .H)

/-- A write inside a frame is sent under the levels that the frame has driven. -/
theorem WriteFramed.transaction {t : Opcodes} {op : Operation} {pos : Nat} {s : State} {P : List Byte}
    (h : WriteFramed t (s.sequence op) pos P) (hl : LevelsBefore op pos s) :
    Transaction.Framed t ⟨s.pinDC, s.pinCS, P⟩ :=
  ⟨hl .CS .L h.1, h.2.imp (fun ⟨hdc, hc⟩ => ⟨hl .DC .L hdc, hc⟩) (hl .DC .H)⟩

/-- Settles O60: the one transaction a step can add is the write at which the block stands. Its sequence frames
that write, and the pins follow the sequence. -/
theorem everyWriteIsFramedAndEveryCommandInTheSet : Obligations.EveryWriteIsFramedAndEveryCommandInTheSet := by
  intro s t ⟨hat, hfollow, hpin, hset, hframed⟩ hst
  have hset := (operatesInSet_iff s).mpr hset
  obtain ⟨hat', hfollow'⟩ := onCourse_step ⟨hat, hfollow⟩ hst
  refine ⟨hat', hfollow', pinsAreTheHistorysRecord s t hpin hst,
    (operatesInSet_iff t).mp (operatesInSet_step hset hst), fun w hw => ?_⟩
  rw [configurationNeverChanges s t hst]
  rcases step_transactions hat hpin hst hw with hold | ⟨op, pos, P, hs, hm, rfl⟩
  · exact hframed w hold
  · have hop : s.operating = some op := by simp [State.operating, hs]
    have hwrite := sequence_writesFramed (hset op hop) pos P hm
    exact hwrite.transaction ((pinsFollow_run_iff hs).mp hfollow)

end Sys2Proof.Machine
end

section
/-! PROOFS of the family 30_encoding.md, part 1: the request word, its decoder and its encoder (R64 to R69, R76, R77,
R86, R87). -/

namespace Sys2Proof.Machine

/-! ### The must-be-zero bits -/

/-- The must-be-zero mask of an `OP`, bit by bit: each operand field of R64 but for the operations that use it. -/
theorem getLsbD_mustBeZero (op : BitVec 4) : ∀ i < 32, (mustBeZero op).getLsbD i =
    if i < 8 then op != 1#4 && op != 3#4 && op != 6#4
    else if i < 24 then op != 6#4
    else if i < 26 then true
    else if i < 27 then op != 8#4
    else if i < 28 then op != 3#4
    else false := by
  revert op; decide

/-- A word assembled with 0 in every field that its `OP` does not use passes check 2 of R67. -/
theorem requestWord_and_mustBeZero {op : BitVec 4} {pres psel : Bool} {y : Half} {b : Byte}
    (hpres : op ≠ 3#4 → pres = false) (hpsel : op ≠ 8#4 → psel = false) (hy : op ≠ 6#4 → y = 0#16)
    (hb : op ≠ 1#4 → op ≠ 3#4 → op ≠ 6#4 → b = 0#8) : requestWord op pres psel y b &&& mustBeZero op = 0#32 := by
  rw [mask_clear_iff]
  intro i hi hm
  rw [getLsbD_mustBeZero op i hi] at hm
  rw [getLsbD_requestWord]
  split_ifs at hm ⊢ <;> simp_all

/-- A word that passes check 2 of R67 is assembled from the fields that its `OP` uses. -/
theorem eq_requestWord_of_clear {rq : Word} (h : rq &&& mustBeZero (opField rq) = 0#32) :
    rq = requestWord (opField rq) (if opField rq = 3#4 then presField rq else false)
      (if opField rq = 8#4 then pselField rq else false) (if opField rq = 6#4 then yField rq else 0#16)
      (if opField rq = 1#4 ∨ opField rq = 3#4 ∨ opField rq = 6#4 then bField rq else 0#8) := by
  obtain ⟨h24, hpres, hpsel, hy, hb⟩ := unused_fields_zero rq h
  rw [ite_eq_left_iff.mpr fun ho => (hpres ho).symm, ite_eq_left_iff.mpr fun ho => (hpsel ho).symm,
    ite_eq_left_iff.mpr fun ho => (hy ho).symm, ite_eq_left_iff.mpr fun ho => ?_]
  · exact (eq_requestWord_iff rq).mpr h24
  · simp only [not_or] at ho
    exact (hb ho.1 ho.2.1 ho.2.2).symm

/-! ### Decode of encode -/

/-- Checks 2 and 3 of R67 passed. -/
theorem checked_of_clear {rq : Word} (h : rq &&& mustBeZero (opField rq) = 0#32) (i : Instr) :
    checked rq true i = .instr i := by simp [checked, h]

/-- The reserved values of `OP` (R66), as numbers. -/
theorem opReserved_iff (rq : Word) : opReserved rq = true ↔ (opField rq).toNat = 0 ∨ 10 ≤ (opField rq).toNat := by
  simp [opReserved, BitVec.le_def, ← BitVec.toNat_inj]

/-- A reserved `OP` selects the reserved row, whatever else the request holds (R84). -/
theorem decode_of_opReserved {r : Request} (h : opReserved r.word = true) :
    decode r = .instr (.reservedOp r.word r.payload) := by
  rw [opReserved_iff] at h
  unfold decode
  split
  case h_10 => rfl
  all_goals omega

/-- The request of a raw send decodes to that send (R77, R86). -/
theorem decode_encodeRaw (c : Byte) (opt : Option (List Byte)) :
    decode (encodeRaw c opt) = .instr (rawSend c opt) := by
  cases opt <;> simp [encodeRaw, rawSend, decode, payloadOf, checked_of_clear, requestWord_and_mustBeZero]

/-- R71 both ways. -/
@[simp] theorem planeOf_beq_red (sel : Plane) : planeOf (sel == .red) = sel := by cases sel <;> rfl

@[simp] theorem beq_red_planeOf (psel : Bool) : (planeOf psel == .red) = psel := by cases psel <;> rfl

/-- Settles O7: each request is a word with 0 in the fields its `OP` does not use, and its fields are the operands. -/
theorem decodeOfEncodeIsExpand : Obligations.DecodeOfEncodeIsExpand := by
  intro t i hwf
  cases i with
  | reservedOp rq P => exact decode_of_opReserved hwf
  | sendCommandData c opt =>
    cases opt <;> simp [encode, decode, Instr.expand, payloadOf, checked_of_clear, requestWord_and_mustBeZero]
  | updatePlane sel buf => simp [encode, decode, Instr.expand, checked_of_clear, requestWord_and_mustBeZero]
  | sendCommand _ | sendData _ | reset | busyWait | setAddressCounter _ _ | init | refresh | updateBw _ | updateRed _ =>
    simp [encode, decode, Instr.expand, planeOf, checked_of_clear, requestWord_and_mustBeZero]
  | _ opt => exact decode_encodeRaw _ opt

/-! ### Encode of decode -/

/-- `PRES` says whether a payload is given; without it there is none (R65, R72). -/
theorem encode_sendCommandData_payloadOf (t : Opcodes) (c : Byte) {pres : Bool} {P : List Byte}
    (h : pres = true ∨ P = []) :
    encode t (.sendCommandData c (payloadOf pres P)) = ⟨requestWord 3#4 pres false 0#16 c, P⟩ := by
  cases pres with
  | true => rfl
  | false =>
    obtain rfl : P = [] := by simpa using h
    rfl

/-- Settles O8: an accepted word is assembled from the fields its `OP` uses, which are the operands; a payload that
is no operand is empty. -/
theorem acceptedRequestIsItsEncoding : Obligations.AcceptedRequestIsItsEncoding := by
  rintro t ⟨w, P⟩ i hd
  rcases decode_cases hd with ⟨-, rfl⟩ | ⟨-, hz, hop⟩
  · rfl
  have hw := eq_requestWord_of_clear hz
  simp only at hw hop
  rcases hop with ⟨ho, rfl, rfl⟩ | ⟨ho, rfl⟩ | ⟨ho, hP, rfl⟩ | ⟨ho, rfl, rfl⟩ | ⟨ho, rfl, rfl⟩ | ⟨ho, rfl, rfl⟩ |
    ⟨ho, rfl, rfl⟩ | ⟨ho, rfl⟩ | ⟨ho, rfl, rfl⟩
  · simpa [encode, ho] using hw.symm
  · simpa [encode, ho] using hw.symm
  · simpa [encode_sendCommandData_payloadOf t _ hP, ho] using hw.symm
  · simpa [encode, ho] using hw.symm
  · simpa [encode, ho] using hw.symm
  · simpa [encode, ho] using hw.symm
  · simpa [encode, ho] using hw.symm
  · simpa [encode, ho] using hw.symm
  · simpa [encode, ho] using hw.symm

/-! ### The match/mask table -/

/-- The `OP` of an operation (R66). -/
def opCode : Operation → BitVec 4
  | .sendCommand => 1#4
  | .sendData => 2#4
  | .sendCommandData => 3#4
  | .reset => 4#4
  | .busyWait => 5#4
  | .setAddressCounter => 6#4
  | .init => 7#4
  | .updatePlane => 8#4
  | .refresh => 9#4

/-- The nine operations. -/
def allOperations : List Operation :=
  [.sendCommand, .sendData, .sendCommandData, .reset, .busyWait, .setAddressCounter, .init, .updatePlane, .refresh]

theorem mem_allOperations (op : Operation) : op ∈ allOperations := by cases op <;> decide

theorem opCode_inj {op op' : Operation} : opCode op = opCode op' ↔ op = op' := by
  have hnodup : (allOperations.map opCode).Nodup := by decide
  exact ⟨List.inj_on_of_nodup_map hnodup (mem_allOperations op) (mem_allOperations op'), congrArg opCode⟩

/-- R68's row of an operation, from R66 and R64: it matches the `OP`, and masks it and the bits that must be 0. -/
def rowOf (op : Operation) : Operation × Word × Word :=
  (op, opCode op ++ 0#28, 0xF0000000#32 ||| mustBeZero (opCode op))

theorem matchMaskRows_eq : matchMaskRows = allOperations.map rowOf := by decide

theorem mem_matchMaskRows (row : Operation × Word × Word) : row ∈ matchMaskRows ↔ ∃ op, rowOf op = row := by
  simp [matchMaskRows_eq, mem_allOperations]

/-- The four bits that every row masks are the `OP`. -/
theorem and_opMask (w : Word) : w &&& 0xF0000000#32 = opField w ++ 0#28 := by
  have hmask : ∀ i < 32, (0xF0000000#32).getLsbD i = decide (28 ≤ i) := by decide
  apply BitVec.eq_of_getLsbD_eq
  intro i hi
  rw [BitVec.getLsbD_and, hmask i hi, BitVec.getLsbD_append, opField, BitVec.getLsbD_extractLsb']
  by_cases h : i < 28
  · simp [h, Nat.not_le.mpr h]
  · simp [h, Nat.not_lt.mp h, show i - 28 < 4 by omega]

/-- A word matches a row exactly if it has the row's `OP` and passes check 2 of R67. -/
theorem matches_rowOf_iff (w : Word) (op : Operation) :
    w &&& (rowOf op).2.2 = (rowOf op).2.1 ↔ opField w = opCode op ∧ w &&& mustBeZero (opField w) = 0#32 := by
  simp only [rowOf]
  generalize opCode op = c
  constructor
  · intro h
    have hfull : ∀ c, opField (0xF0000000#32 ||| mustBeZero c) = BitVec.allOnes 4 := by decide
    have hmask : ∀ c, (0xF0000000#32 ||| mustBeZero c) &&& mustBeZero c = mustBeZero c := by decide
    have hword : ∀ c, opField (c ++ 0#28) = c ∧ (c ++ 0#28) &&& mustBeZero c = 0#32 := by decide
    obtain rfl : opField w = c := calc
      opField w = opField w &&& opField (0xF0000000#32 ||| mustBeZero c) := by rw [hfull, BitVec.and_allOnes]
      _ = opField (w &&& (0xF0000000#32 ||| mustBeZero c)) := BitVec.extractLsb'_and.symm
      _ = c := by rw [h, (hword c).1]
    exact ⟨rfl, by rw [← hmask, ← BitVec.and_assoc, h, (hword _).2]⟩
  · rintro ⟨rfl, hz⟩
    rw [BitVec.and_or_distrib_left, hz, and_opMask, BitVec.or_zero]

/-- What the decoder accepts is the reserved row, or an instruction of an operation whose `OP` the word has. -/
theorem decode_operation {r : Request} {i : Instr} (h : decode r = .instr i) :
    i = .reservedOp r.word r.payload ∨
    ∃ op, operation i = some op ∧ opField r.word = opCode op ∧ r.word &&& mustBeZero (opField r.word) = 0#32 := by
  rcases decode_cases h with ⟨-, hi⟩ | ⟨-, hz, hop⟩
  · exact .inl hi
  refine .inr ?_
  rcases hop with ⟨ho, -, rfl⟩ | ⟨ho, rfl⟩ | ⟨ho, -, rfl⟩ | ⟨ho, -, rfl⟩ | ⟨ho, -, rfl⟩ | ⟨ho, -, rfl⟩ |
    ⟨ho, -, rfl⟩ | ⟨ho, rfl⟩ | ⟨ho, -, rfl⟩ <;>
    exact ⟨_, rfl, ho, hz⟩

/-- Settles O9: an accepted word has its operation's `OP` and 0 in the bits that must be 0, which is to match that
operation's row; and no two rows have the same `OP`. -/
theorem wordSelectsTheRowItMatches : Obligations.WordSelectsTheRowItMatches := by
  refine ⟨fun r i op hd hop row hrow => ?_, fun r hno => ?_⟩
  · obtain ⟨op', rfl⟩ := (mem_matchMaskRows row).mp hrow
    rcases decode_operation hd with rfl | ⟨op₀, h₀, ho, hz⟩
    · cases hop
    obtain rfl : op₀ = op := Option.some.inj (h₀.symm.trans hop)
    rw [matches_rowOf_iff, and_iff_left hz, ho, opCode_inj]
    exact eq_comm
  · cases hd : decode r with
    | rejected why => exact .inl ⟨why, rfl⟩
    | instr i =>
      rcases decode_operation hd with rfl | ⟨op, -, hrow⟩
      · exact .inr rfl
      · exact absurd ((matches_rowOf_iff r.word op).mpr hrow) (hno _ ((mem_matchMaskRows _).mpr ⟨op, rfl⟩))

/-- Settles O10: the fields are zero by check 2 of R67, the payload is empty by check 3. -/
theorem acceptedRequestLeavesUnusedFieldsZero : Obligations.AcceptedRequestLeavesUnusedFieldsZero := by
  intro r i hd hres
  rcases decode_cases hd with ⟨hr, -⟩ | ⟨-, hz, hop⟩
  · rw [hres] at hr; cases hr
  obtain ⟨h24, hpres, hpsel, hy, hb⟩ := unused_fields_zero r.word hz
  refine ⟨h24, hpres, hpsel, hy, hb, fun hP => ?_⟩
  simp only [hP, false_and, and_false, or_false, false_or] at hop
  rcases hop with ⟨ho, -⟩ | ⟨ho, hpres, -⟩ | ⟨ho, -⟩
  · exact .inl ho
  · exact .inr (.inr ⟨ho, hpres⟩)
  · exact .inr (.inl ho)

/-- Settles O6: fourteen fixed words, read by the decoder itself. -/
theorem sampleWordsDecode : Obligations.SampleWordsDecode := by
  unfold Obligations.SampleWordsDecode
  decide

/-! ### The wire command bytes -/

theorem mem_commandAll (c : Command) : c ∈ Command.all := by cases c <;> decide

/-- Distinct command bytes tell the commands apart (R76). -/
theorem byte_inj {t : Opcodes} (h : t.distinct = true) {c c' : Command} (hb : t.byte c = t.byte c') : c = c' :=
  List.inj_on_of_nodup_map (of_decide_eq_true h) (mem_commandAll c) (mem_commandAll c') hb

/-- Settles O12: the search finds some command with the byte, and only one command has it. -/
theorem wireDecodeOfEveryCommandByte : Obligations.WireDecodeOfEveryCommandByte := by
  intro t ht b c
  have found : ∀ {c'}, decodeWire t b = some c' → t.byte c' = b := fun h => by
    simpa using List.find?_some h
  refine ⟨found, fun hb => ?_⟩
  cases hd : decodeWire t b with
  | some c' => rw [byte_inj ht ((found hd).trans hb.symm)]
  | none => simpa [hb] using List.find?_eq_none.mp hd c (mem_commandAll c)

end Sys2Proof.Machine
end

section
/-! PROOFS of the family 30_encoding.md, part 2: what a request begins (R69, R70, R84), and the frames of the raw sends,
of the wire commands and of the address counter (R73, R74, R76, R77, R83). -/

namespace Sys2Proof.Machine

/-! ### Requests that begin and requests that are turned away -/

/-- A byte of the command set passes the raw sends' check (R69). -/
theorem startSend_of_holds {s : State} {l : Latches} (op : Operation) (h : s.cfg.opcodes.holds l.b = true) :
    s.startSend op l = s.start op l := by simp [State.startSend, h]

/-- Any other byte is refused (R69). -/
theorem startSend_of_not_holds {s : State} {l : Latches} (op : Operation) (h : s.cfg.opcodes.holds l.b = false) :
    s.startSend op l = s.refuse := by simp [State.startSend, h]

/-- Settles O23: the refusal is the raw sends' first act. -/
theorem byteOutsideTheCommandSetIsRefused : Obligations.ByteOutsideTheCommandSetIsRefused := by
  intro s b hb opt i hi
  have hout : s.cfg.opcodes.holds b = false := by
    rw [← Bool.not_eq_true, holds_iff]
    exact fun ⟨c, hc⟩ => hb c hc.symm
  have hexec : exec i s = .next s.refuse := by
    simp only [List.mem_cons, List.not_mem_nil, or_false] at hi
    rcases hi with rfl | rfl
    · exact congrArg Host.Outcome.next (startSend_of_not_holds .sendCommand hout)
    · exact congrArg Host.Outcome.next (startSend_of_not_holds .sendCommandData hout)
  exact ⟨s.refuse, hexec, endsWith_refuse s, rfl, rfl, rfl⟩

/-- Settles O39: the reserved row is the refusal, which loads no latch and drives no pin. -/
theorem reservedOpIsRefused : Obligations.ReservedOpIsRefused :=
  fun s _ _ => ⟨s.refuse, rfl, endsWith_refuse s, rfl, rfl, rfl, rfl⟩

/-- A raw send of a byte of the command set begins its operation with the latches of its request (R77, R86). -/
theorem startRaw_of_holds {s : State} {c : Byte} (opt : Option (List Byte)) (h : s.cfg.opcodes.holds c = true) :
    s.startRaw c opt = s.start (operation.rawOperation opt) (latchesOf (encodeRaw c opt)) := by
  cases opt with
  | none => rw [encodeRaw, latchesOf_requestWord]; exact startSend_of_holds .sendCommand h
  | some P => rw [encodeRaw, latchesOf_requestWord]; exact startSend_of_holds .sendCommandData h

/-- An instruction that is turned away neither for its byte nor for its plane's length begins its operation, with the
latches of its own request. -/
theorem exec_starts {i : Instr} {op : Operation} {s : State} (ho : operation i = some op)
    (hset : op = .sendCommand ∨ op = .sendCommandData →
      s.cfg.opcodes.holds (bField (encode s.cfg.opcodes i).word) = true)
    (hlen : op = .updatePlane → (encode s.cfg.opcodes i).payload.length = s.cfg.planeBytes) :
    exec i s = .next (s.start op (latchesOf (encode s.cfg.opcodes i))) := by
  have raw : ∀ c opt, op = operation.rawOperation opt → encode s.cfg.opcodes i = encodeRaw c opt →
      exec i s = .next (s.startRaw c opt) → exec i s = .next (s.start op (latchesOf (encode s.cfg.opcodes i))) := by
    rintro c opt rfl he hexec
    have hc : s.cfg.opcodes.holds c = true := by
      rw [he] at hset
      cases opt with
      | none => simpa [encodeRaw] using hset (.inl rfl)
      | some P => simpa [encodeRaw] using hset (.inr rfl)
    rw [hexec, he, startRaw_of_holds opt hc]
  have plane : ∀ sel, op = .updatePlane → exec i s = .next (s.startPlane sel (encode s.cfg.opcodes i).payload) →
      latchesOf (encode s.cfg.opcodes i) = Latches.plane sel (encode s.cfg.opcodes i).payload →
      exec i s = .next (s.start op (latchesOf (encode s.cfg.opcodes i))) := by
    rintro sel rfl hexec hl
    rw [hexec, hl, startPlane_of_length sel (hlen rfl)]
  cases i with
  | reservedOp rq P => cases ho
  | sendCommand c => cases ho; exact raw c none rfl rfl rfl
  | sendCommandData c opt =>
    cases ho
    cases opt with
    | some P => exact raw c (some P) rfl rfl rfl
    | none =>
      have hc : s.cfg.opcodes.holds c = true := by simpa [encode] using hset (.inr rfl)
      rw [encode, latchesOf_requestWord]
      exact congrArg Host.Outcome.next (startSend_of_holds .sendCommandData hc)
  | updatePlane sel buf => cases ho; exact plane sel rfl rfl (latchesOf_requestWord ..)
  | updateBw buf => cases ho; exact plane .bw rfl rfl (latchesOf_requestWord ..)
  | updateRed buf => cases ho; exact plane .red rfl rfl (latchesOf_requestWord ..)
  | sendData _ | reset | busyWait | setAddressCounter _ _ | init | refresh =>
    cases ho; rw [encode, latchesOf_requestWord]; rfl
  | _ opt => cases ho; exact raw _ opt rfl rfl rfl

/-- Settles O11: the accepted request is the encoding of its instruction, which starts its operation with the latches
of that request. -/
theorem latchesAreTheRequestsFields : Obligations.LatchesAreTheRequestsFields := by
  intro s r more i op hs hr hd ho hset hlen
  obtain rfl := acceptedRequestIsItsEncoding s.cfg.opcodes r i hd
  rw [step_of_decoded hs hr hd, exec_starts (s := s.accept _ more) ho hset hlen, start_eq]
  rfl

/-! ### Frames -/

/-- A raw send of a byte of the command set, with or without a payload, emits its frames and ends `OK`. -/
theorem startRaw_completes {s : State} {c : Byte} {opt : Option (List Byte)} (hc : s.cfg.opcodes.holds c = true)
    (hp : s.pinsOk (if opt.isSome then 6 else 3)) (hw : s.busOk (if opt.isSome then 2 else 1)) :
    ∃ t : State, Host.Core.run Sys2Proof.core (if opt.isSome then 8 else 4) (s.startRaw c opt) = .next t ∧
      s.EndsWith t (cmdDataFrameOk c opt) .ok none s.phase (s.viol || !s.phase.configured) s.refd ∧
      t.pinDC = (if opt.isSome then .H else .L) ∧ t.pinCS = .H ∧ t.pinRST = s.pinRST := by
  obtain ⟨-, hpins, hwrites, hstraight⟩ := cmdDataFrame_straight c opt
  rw [startRaw_of_holds opt hc]
  cases opt with
  | none =>
    rw [encodeRaw, latchesOf_requestWord]
    obtain ⟨t, hrun, hend, hpin⟩ :=
      completes_straight .sendCommand (Latches.command c) s 4 hstraight rfl (hpins ▸ hp) (hwrites ▸ hw)
    exact ⟨t, hrun, hend, hpin .DC, hpin .CS, hpin .RST⟩
  | some P =>
    rw [encodeRaw, latchesOf_requestWord]
    obtain ⟨t, hrun, hend, hpin⟩ := completes_straight .sendCommandData (Latches.commandData c (some P)) s 8 hstraight
      rfl (hpins ▸ hp) (hwrites ▸ hw)
    exact ⟨t, hrun, hend, hpin .DC, hpin .CS, hpin .RST⟩

/-- Settles O19: a raw send without a payload. -/
theorem sendCommandCompletes : Obligations.SendCommandCompletes := by
  intro s c hc hp hw
  obtain ⟨t, ht⟩ := startRaw_completes (opt := none) hc hp hw
  exact ⟨s.startRaw c none, t, rfl, ht⟩

/-- Settles O20: the data frame is the operation's whole sequence. -/
theorem sendDataCompletes : Obligations.SendDataCompletes := by
  intro s P hp hw
  obtain ⟨-, hpins, hwrites, hstraight⟩ := dataFrame_straight P
  obtain ⟨t, hrun, hend, hpin⟩ :=
    completes_straight .sendData (Latches.data P) s 4 hstraight rfl (hpins ▸ hp) (hwrites ▸ hw)
  exact ⟨s.start .sendData (Latches.data P), t, rfl, hrun, hend, hpin .DC, hpin .CS, hpin .RST⟩

/-- A wire command is the raw send of its configured byte (R77). -/
theorem exec_ofCommand (c : Command) (opt : Option (List Byte)) (s : State) :
    exec (Instr.ofCommand c opt) s = .next (s.startRaw (s.cfg.opcodes.byte c) opt) := by
  cases c <;> rfl

/-- Settles O22: a raw send, whose byte is in the command set because it is a command's. -/
theorem rawWireCommandsComplete : Obligations.RawWireCommandsComplete := by
  intro s c opt hp hw
  obtain ⟨t, ht⟩ := startRaw_completes ((holds_iff _ _).mpr ⟨c, rfl⟩) hp hw
  exact ⟨_, t, exec_ofCommand c opt s, ht⟩

/-- The events and counts of the address counter's two commands. -/
theorem setAddressCounter_straight (t : Opcodes) (x : Byte) (y : Half) :
    okEventsOf (setAddressCounter t x y) =
      cmdDataFrameOk t.ramXCounter (some [x]) ++ cmdDataFrameOk t.ramYCounter (some (littleEndian y)) ∧
    pinSetsOf (setAddressCounter t x y) = 12 ∧ writesOf (setAddressCounter t x y) = 4 ∧
    ∀ m ∈ setAddressCounter t x y, m.straight = true := by
  obtain ⟨hxe, hxp, hxw, hxs⟩ := cmdDataFrame_straight t.ramXCounter (some [x])
  obtain ⟨hye, hyp, hyw, hys⟩ := cmdDataFrame_straight t.ramYCounter (some (littleEndian y))
  rw [setAddressCounter, okEventsOf_append, pinSetsOf_append, writesOf_append, hxe, hxp, hxw, hye, hyp, hyw]
  exact ⟨rfl, rfl, rfl, List.forall_mem_append.mpr ⟨hxs, hys⟩⟩

/-- Settles O30: the two commands are the operation's whole sequence, and nothing looks at `x` or `y`. -/
theorem setAddressCounterCompletes : Obligations.SetAddressCounterCompletes := by
  intro s x y hp hw
  obtain ⟨-, hpins, hwrites, hstraight⟩ := setAddressCounter_straight s.cfg.opcodes x y
  obtain ⟨t, hrun, hend, hpin⟩ :=
    completes_straight .setAddressCounter (Latches.counter x y) s 16 hstraight rfl (hpins ▸ hp) (hwrites ▸ hw)
  exact ⟨s.start .setAddressCounter (Latches.counter x y), t, rfl, hrun, hend, hpin .DC, hpin .CS, hpin .RST⟩

end Sys2Proof.Machine
end

section
/-! PROOFS of the family 40_protocol_channel.md: the frames of a command with an optional payload (R91, R94), a
sequence that stops at its first failure (R88, R90, R142), and the frame of the channel operations (R95, R111, R125). -/

namespace Sys2Proof.Machine

/-! ### The command frame and the data frame -/

/-- Settles O21: with a payload it is the raw send; without one the command frame is the whole sequence. -/
theorem sendCommandDataCompletes : Obligations.SendCommandDataCompletes := by
  intro s c hc
  refine ⟨fun hp hw => ?_, fun P hp hw => ?_⟩
  · obtain ⟨-, hpins, hwrites, hstraight⟩ := cmdDataFrame_straight c none
    obtain ⟨t, hrun, hend, hpin⟩ := completes_straight .sendCommandData (Latches.commandData c none) s 4 hstraight rfl
      (hpins ▸ hp) (hwrites ▸ hw)
    exact ⟨_, t, congrArg Host.Outcome.next (startSend_of_holds .sendCommandData hc), hrun, hend, hpin .DC, hpin .CS,
      hpin .RST⟩
  · obtain ⟨t, ht⟩ := startRaw_completes (opt := some P) hc hp hw
    exact ⟨s.startRaw c (some P), t, rfl, ht⟩

/-! ### The release of chip-select -/

/-- Failure entry after the events `evs`, from within an operation: `VIOL`, `REFD` and the pins stay (R142). -/
theorem Emitted.endsWith_failureEntry {s u : State} {evs : List Event} (r : Emitted s u evs) (f : Failure) :
    s.EndsWith (u.failureEntry f) evs f.code f.native .FAULTED s.viol s.refd where
  history := congrArg (· ++ [Event.rsp f.code f.native]) r.history
  phase := rfl
  viol := r.viol
  refd := r.refd
  lastRsp := by rw [← r.viol, ← r.refd]; rfl
  seq := rfl
  cfg := r.cfg
  requests := r.requests

/-- Settles O17: the step drives CS once, whatever the answer, and enters failure with the write's own value. -/
theorem chipSelectReleaseReportsTheWrite : Obligations.ChipSelectReleaseReportsTheWrite :=
  fun s _ _ e hs => ⟨s.runRelease e, step_release hs, (emitted_driveLine .CS .H s).endsWith_failureEntry (.bus e),
    rfl, rfl, rfl⟩

/-! ### A sequence that stops at its first failure -/

/-- Begun with the latches `l`, the operation ends after `n` steps in failure entry with `f`, having emitted `evs`. -/
def FailsAfter (op : Operation) (l : Latches) (s : State) (n : Nat) (evs : List Event) (f : Failure) : Prop :=
  ∃ t : State, Host.Core.run Sys2Proof.core n (s.start op l) = .next t ∧
    s.EndsWith t evs f.code f.native .FAULTED (s.viol || !op.validIn s.phase) s.refd ∧
    ∀ p, t.pin p = lineAfter p (s.pin p) evs

/-- A primitive other than a sample is arrived at without a trace (R31). -/
theorem arrive_of_ne_pinRead {m : Primitive} (hm : m ≠ .pinRead) (v : State) : m.arrive v = v := by
  cases m with
  | pinRead => exact absurd rfl hm
  | _ => rfl

theorem pinsOk_zero (s : State) : s.pinsOk 0 := fun _ hk => absurd hk (Nat.not_lt_zero _)
theorem busOk_zero (s : State) : s.busOk 0 := fun _ hk => absurd hk (Nat.not_lt_zero _)

section FirstFailure

variable {op : Operation} {l : Latches} {s : State} {pre rest : List Primitive}
  (hpre : ∀ x ∈ pre, x.straight = true) (hp : s.pinsOk (pinSetsOf pre)) (hw : s.busOk (writesOf pre))

include hpre hp hw

/-- Straight primitives answered `ok` take a step each, and the primitive after them, which is no sample, runs next and
sends control on. -/
theorem run_to_follow {m : Primitive} (hseq : op.primitives s.cfg l = pre ++ m :: rest) (hm : m ≠ .pinRead) :
    ∃ u : State, Host.Core.run Sys2Proof.core (pre.length + 1) (s.start op l) =
        .next ((m.perform u).follow op pre.length (m.flow u)) ∧
      Ran (begun op l s) u (okEventsOf pre) (pinSetsOf pre) (writesOf pre) 0 := by
  obtain ⟨v, hrun, r, -⟩ := run_straight op pre hpre [] (m :: rest) (begun op l s) (by simpa using hseq) hp hw
  have hget : (v.sequence op)[pre.length]? = some m := by rw [r.sequence, begun_sequence, hseq]; simp
  have hstart : Host.Core.run Sys2Proof.core pre.length (s.start op l) = .next (v.atPosition op pre.length) := by
    simpa [start_eq_enter, enter_some hget, arrive_of_ne_pinRead hm] using hrun
  exact ⟨v.atPosition op pre.length,
    (run_add Sys2Proof.core pre.length 1 _ _ hstart).trans (run_one (step_atPosition hget)),
    by simpa using r.trans (ran_atPosition op pre.length v)⟩

/-- The first failing answer is a pin set's: failure entry with its value (R14, R142). -/
theorem failsAfter_pinSet {p : OutPin} {lvl : Level} {e : PinFault}
    (hseq : op.primitives s.cfg l = pre ++ .pinSet p lvl :: rest) (he : s.pinAnswer (pinSetsOf pre) = .err e) :
    FailsAfter op l s (pre.length + 1) (okEventsOf pre ++ [.set p lvl (.err e)]) (.pin e) := by
  obtain ⟨u, hrun, r⟩ := run_to_follow hpre hp hw hseq (by simp)
  have ha : u.pinAnswer 0 = .err e := by rw [r.pinAnswer, Nat.zero_add]; exact he
  have hflow : Primitive.flow u (.pinSet p lvl) = .fail (.pin e) := by simp [Primitive.flow, ha]
  exact ⟨_, hflow ▸ hrun, endsWith_failureEntry (.pin e) (r.toEmitted.trans (ha ▸ emitted_driveLine p lvl u))⟩

/-- The first failing answer is a write's, and chip-select is not released: failure entry with its value (R90). -/
theorem failsAfter_busWrite {P : List Byte} {e : BusFault}
    (hseq : op.primitives s.cfg l = pre ++ .busWrite P :: rest)
    (he : s.busAnswer (writesOf pre) = .err e) (hc : s.cfg.csReleaseOnFail = false) :
    FailsAfter op l s (pre.length + 1) (okEventsOf pre ++ [.write P (.err e)]) (.bus e) := by
  obtain ⟨u, hrun, r⟩ := run_to_follow hpre hp hw hseq (by simp)
  have ha : u.busAnswer 0 = .err e := by rw [r.busAnswer, Nat.zero_add]; exact he
  have hcu : u.cfg.csReleaseOnFail = false := by rw [r.cfg]; exact hc
  have hflow : Primitive.flow u (.busWrite P) = .fail (.bus e) := by simp [Primitive.flow, ha, hcu]
  exact ⟨_, hflow ▸ hrun, endsWith_failureEntry (.bus e) (r.toEmitted.trans (ha ▸ emitted_writeBus P u))⟩

/-- The first failing answer is a write's, and chip-select is released: one attempt more, whose answer is recorded,
and then failure entry with the write's value (R90). -/
theorem failsAfter_release {P : List Byte} {e : BusFault}
    (hseq : op.primitives s.cfg l = pre ++ .busWrite P :: rest)
    (he : s.busAnswer (writesOf pre) = .err e) (hc : s.cfg.csReleaseOnFail = true) :
    FailsAfter op l s (pre.length + 2)
      (okEventsOf pre ++ [.write P (.err e), .set .CS .H (s.pinAnswer (pinSetsOf pre))]) (.bus e) := by
  obtain ⟨u, hrun, r⟩ := run_to_follow hpre hp hw hseq (by simp)
  have ha : u.busAnswer 0 = .err e := by rw [r.busAnswer, Nat.zero_add]; exact he
  have hcu : u.cfg.csReleaseOnFail = true := by rw [r.cfg]; exact hc
  have hflow : Primitive.flow u (.busWrite P) = .release e := by simp [Primitive.flow, ha, hcu]
  have hpin : ((u.writeBus P).atRelease op pre.length e).pinAnswer 0 = s.pinAnswer (pinSetsOf pre) :=
    (r.pinAnswer 0).trans (by rw [Nat.zero_add]; rfl)
  have hwrite := (emitted_writeBus P u).trans (emitted_atRelease op pre.length e _)
  have hrelease := hwrite.trans (emitted_driveLine .CS .H _)
  rw [ha, hpin] at hrelease
  rw [hflow] at hrun
  exact ⟨((u.writeBus P).atRelease op pre.length e).runRelease e,
    (run_add Sys2Proof.core (pre.length + 1) 1 _ _ hrun).trans (run_one (step_release rfl)),
    endsWith_failureEntry (.bus e) (r.toEmitted.trans hrelease)⟩

end FirstFailure

/-- Settles O24: each clause is the command frame cut at its failing primitive. -/
theorem commandFrameStopsAtItsFirstFailure : Obligations.CommandFrameStopsAtItsFirstFailure := by
  intro s c hc
  refine ⟨_, congrArg Host.Outcome.next (startSend_of_holds (l := Latches.command c) .sendCommand hc), fun e he => ?_,
    fun e hp he => ?_, fun e hp he hr => ?_, fun e hp he hr => ?_, fun e hp hw he => ?_⟩
  · obtain ⟨t, hrun, hend, hpin⟩ : FailsAfter .sendCommand (Latches.command c) s 1 _ _ :=
      failsAfter_pinSet (pre := []) (by simp) (pinsOk_zero s) (busOk_zero s) rfl he
    exact ⟨t, hrun, hend, hpin .DC, hpin .CS⟩
  · obtain ⟨t, hrun, hend, hpin⟩ : FailsAfter .sendCommand (Latches.command c) s 2 _ _ :=
      failsAfter_pinSet (pre := [.pinSet .DC .L]) (by simp [Primitive.straight]) hp (busOk_zero s) rfl he
    exact ⟨t, hrun, hend, hpin .DC, hpin .CS⟩
  · obtain ⟨t, hrun, hend, hpin⟩ : FailsAfter .sendCommand (Latches.command c) s 3 _ _ :=
      failsAfter_busWrite (pre := [.pinSet .DC .L, .pinSet .CS .L]) (by simp [Primitive.straight]) hp (busOk_zero s)
        rfl he hr
    exact ⟨t, hrun, hend, hpin .DC, hpin .CS⟩
  · obtain ⟨t, hrun, hend, hpin⟩ : FailsAfter .sendCommand (Latches.command c) s 4 _ _ :=
      failsAfter_release (pre := [.pinSet .DC .L, .pinSet .CS .L]) (by simp [Primitive.straight]) hp (busOk_zero s)
        rfl he hr
    exact ⟨t, hrun, hend, hpin .DC, hpin .CS⟩
  · obtain ⟨t, hrun, hend, hpin⟩ : FailsAfter .sendCommand (Latches.command c) s 4 _ _ :=
      failsAfter_pinSet (pre := [.pinSet .DC .L, .pinSet .CS .L, .busWrite [c]]) (by simp [Primitive.straight]) hp hw
        rfl he
    exact ⟨t, hrun, hend, hpin .DC, hpin .CS⟩

/-! ### The operations that use the channel only -/

/-- What the channel does not reach: RST, the count of samples, and the BUSY stream (R95). -/
def offChannel (s : State) : PinLevel × Nat × Answers BusyAnswer := (s.pinRST, s.polls, s.busyIn)

/-- A primitive of the channel: it drives DC or CS, or writes (R88, R89). -/
def Primitive.onChannel : Primitive → Prop
  | .pinSet p _ => p ≠ .RST
  | .busWrite _ => True
  | .sleep _ => False
  | .pinRead => False
  | .pollSleep _ => False

/-- A command with an optional payload is sent on the channel. -/
theorem onChannel_cmdDataFrame (c : Byte) (opt : Option (List Byte)) : ∀ m ∈ cmdDataFrame c opt, m.onChannel := by
  cases opt <;> simp [cmdDataFrame, cmdFrame, dataFrame, Primitive.onChannel]

/-- The address counter is set on the channel (R110). -/
theorem onChannel_setAddressCounter (t : Opcodes) (x : Byte) (y : Half) :
    ∀ m ∈ setAddressCounter t x y, m.onChannel :=
  List.forall_mem_append.mpr ⟨onChannel_cmdDataFrame _ _, onChannel_cmdDataFrame _ _⟩

/-- The operations that use the channel only, by their sequences (R92 to R94, R111, R125). -/
theorem onChannel_sequence {op : Operation} (h : op ∈ [Operation.sendCommand, .sendData, .sendCommandData,
    .setAddressCounter, .updatePlane]) (s : State) : ∀ m ∈ s.sequence op, m.onChannel := by
  simp only [List.mem_cons, List.not_mem_nil, or_false] at h
  rcases h with rfl | rfl | rfl | rfl | rfl
  · exact onChannel_cmdDataFrame s.latches.b none
  · show ∀ m ∈ dataFrame s.latches.p, m.onChannel
    simp [dataFrame, Primitive.onChannel]
  · exact onChannel_cmdDataFrame s.latches.b s.latches.payload
  · exact onChannel_setAddressCounter s.cfg.opcodes s.latches.b s.latches.y
  · exact List.forall_mem_append.mpr ⟨onChannel_setAddressCounter _ _ _, onChannel_cmdDataFrame _ _⟩

/-- A primitive of the channel reaches nothing off it. -/
theorem offChannel_perform {m : Primitive} (h : m.onChannel) (s : State) : offChannel (m.perform s) = offChannel s := by
  cases m with
  | pinSet p lvl =>
    have hp : p ≠ .RST := h
    simp [offChannel, Primitive.perform, hp]
  | busWrite P => rfl
  | sleep ms => exact h.elim
  | pinRead => exact h.elim
  | pollSleep ms => exact h.elim

/-- Moving on through a sequence of the channel starts no wait. -/
theorem offChannel_enter {op : Operation} {v : State} (h : ∀ m ∈ v.sequence op, m.onChannel) (pos : Nat) :
    offChannel (v.enter op pos) = offChannel v := by
  cases hm : (v.sequence op)[pos]? with
  | none => rw [enter_none hm]; rfl
  | some m =>
    have hne : m ≠ .pinRead := by rintro rfl; exact h _ (List.mem_of_getElem? hm)
    rw [enter_some hm, arrive_of_ne_pinRead hne]
    rfl

theorem offChannel_follow {op : Operation} {v : State} (h : ∀ m ∈ v.sequence op, m.onChannel) (pos : Nat) (f : Flow) :
    offChannel (v.follow op pos f) = offChannel v := by
  cases f with
  | advance => exact offChannel_enter h _
  | leaveWait => exact offChannel_enter h _
  | repeatWait => rfl
  | fail f => rfl
  | release e => rfl

/-- A step of an operation whose sequence is all of the channel reaches nothing off it. -/
theorem offChannel_step {op : Operation} {s t : State} (h : ∀ m ∈ s.sequence op, m.onChannel)
    (ho : s.operating = some op) (hst : step s = .next t) : offChannel t = offChannel s := by
  unfold State.operating at ho
  cases hs : s.seq with
  | idle => rw [hs] at ho; cases ho
  | run op' pos =>
    rw [hs] at ho; cases ho
    rw [step_run hs] at hst
    cases hm : (s.sequence op)[pos]? with
    | none => rw [runPrimitive_none hm] at hst; cases hst; rfl
    | some m =>
      rw [runPrimitive_some hm] at hst; cases hst
      have hseq := (emitted_perform m s).sequence op
      rw [offChannel_follow (by rw [hseq]; exact h), offChannel_perform (h m (List.mem_of_getElem? hm))]
  | release op' pos e => rw [step_release hs] at hst; cases hst; rfl

/-- Settles O45: beginning loads latches and checks the phase, a refusal is told by its code, and the primitives are
those of the channel. -/
theorem channelOperationsTouchOnlyTheChannel : Obligations.ChannelOperationsTouchOnlyTheChannel := by
  rintro op s t hop (⟨i, hi, h⟩ | ⟨ho, h⟩)
  · rcases exec_begins hi h with rfl | rfl | rfl
    · have hne : op ≠ .busyWait := by rintro rfl; simp at hop
      rw [start_eq, if_neg hne]
      exact ⟨rfl, rfl, rfl, rfl, rfl, fun _ => ⟨rfl, rfl⟩, fun _ _ _ _ => rfl⟩
    · refine ⟨rfl, rfl, rfl, rfl, rfl, fun hne => absurd rfl hne, fun r hr hcode => ?_⟩
      cases hr; exact absurd rfl hcode
    · exact ⟨rfl, rfl, rfl, rfl, rfl, fun hne => absurd rfl hne, fun _ _ _ _ => rfl⟩
  · have hoff := offChannel_step (onChannel_sequence hop s) ho h
    simp only [offChannel, Prod.mk.injEq] at hoff
    obtain ⟨hrst, hpolls, hbusy⟩ := hoff
    obtain ⟨hcfg, hreq, -, hrefd, hgo⟩ := operating_frame ho h
    exact ⟨hrst, hpolls, hbusy, hcfg, hreq, fun hne => ⟨(hgo hne).1, hrefd⟩, fun _ _ _ _ => hrefd⟩

end Sys2Proof.Machine
end

section
/-! PROOFS of the family 41_reset_busy.md: the reset pulse and its failures (R100), the ends of BusyWait and the wait
that has none (R102 to R104), and what a step of RESET and of BUSY_WAIT leaves unchanged (R101, R103). -/

namespace Sys2Proof.Machine

/-! ### The reset pulse -/

/-- An operation that is valid in every phase sets no `VIOL` (R25, R26). -/
theorem viol_of_validIn {op : Operation} {ph : Phase} (h : op.validIn ph = true) (v : Bool) :
    (v || !op.validIn ph) = v := by simp [h]

/-- Settles O25: the pulse is the whole sequence, and each failure cuts it at a pin set. -/
theorem resetPulseSucceedsOrStops : Obligations.ResetPulseSucceedsOrStops := by
  intro s
  have hviol := viol_of_validIn (op := .reset) (ph := s.phase) rfl s.viol
  refine ⟨s.start .reset Latches.none, rfl, fun hp => ?_, fun e he => ?_, fun e hp he => ?_⟩
  · obtain ⟨t, hrun, hend, hpin⟩ := completes_straight .reset Latches.none s 4
      (by simp [Operation.primitives, resetPrimitives, resetPulse, Primitive.straight]) rfl hp (busOk_zero s)
    exact ⟨t, ⟨hrun, hpin .CS, hpin .DC⟩, hviol ▸ hend, hpin .RST⟩
  · obtain ⟨t, hrun, hend, hpin⟩ : FailsAfter .reset Latches.none s 1 _ _ :=
      failsAfter_pinSet (pre := []) (by simp) (pinsOk_zero s) (busOk_zero s) rfl he
    exact ⟨t, ⟨hrun, hpin .CS, hpin .DC⟩, hviol ▸ hend, hpin .RST⟩
  · obtain ⟨t, hrun, hend, hpin⟩ : FailsAfter .reset Latches.none s 3 _ _ :=
      failsAfter_pinSet (pre := [.pinSet .RST .L, .sleep s.cfg.tResetLowMs]) (by simp [Primitive.straight]) hp
        (busOk_zero s) rfl he
    exact ⟨t, ⟨hrun, hpin .CS, hpin .DC⟩, hviol ▸ hend, hpin .RST⟩

/-! ### The ends of a wait -/

/-- Settles O26: the wait is the operation's whole sequence. -/
theorem busyWaitEndsAtTheFirstLow : Obligations.BusyWaitEndsAtTheFirstLow := by
  intro s k hk hb
  have hviol := viol_of_validIn (op := .busyWait) (ph := s.phase) rfl s.viol
  obtain ⟨u, hrun, r, hpolls⟩ :=
    run_wait (v := begun .busyWait Latches.none s) (op := .busyWait) (pos := 0) k rfl rfl hk hb
  obtain ⟨hend, hpin⟩ := endsWith_returnOk r.toEmitted
  have hlast : (u.sequence .busyWait)[2]? = none := by rw [r.sequence]; rfl
  rw [enter_none hlast] at hrun
  have hstays : ∀ p, (u.returnOk .busyWait).pin p = s.pin p := fun p => by
    rw [hpin, lineAfter_append, lineAfter_pollTurns]; rfl
  exact ⟨s.start .busyWait Latches.none, _, rfl, hrun, hviol ▸ hend, hpolls, hstays .CS, hstays .DC, hstays .RST⟩

/-- `k` samples of `H` within the bound, and one sample more, whatever it reads, which sends control on. -/
theorem run_to_sample {v : State} {op : Operation} {pos ms : Nat} (k : Nat)
    (h0 : (v.sequence op)[pos]? = some .pinRead) (h1 : (v.sequence op)[pos + 1]? = some (.pollSleep ms))
    (hh : ∀ j < k, v.busyAnswer j = .ok .H) (hb : v.withinBound k) :
    ∃ w, Host.Core.run Sys2Proof.core (2 * k + 1) (v.enter op pos) =
        .next ((Primitive.perform w .pinRead).follow op pos (Primitive.flow w .pinRead)) ∧
      Ran v w (pollTurns k ms) 0 0 k ∧ w.polls = k := by
  obtain ⟨w, hrun, r, hpolls⟩ := run_turns (op := op) (pos := pos) (ms := ms) k (v.setPolls 0) h0 h1
    (fun j hj => hh j hj) (fun n hn => by simpa using hb n hn)
  have hsample : (w.sequence op)[pos]? = some .pinRead := by rw [r.sequence]; exact h0
  refine ⟨w.atPosition op pos, ?_, ?_, by simpa using hpolls⟩
  · rw [enter_wait h0, run_add Sys2Proof.core (2 * k) 1 _ _ hrun]
    exact run_one (step_atPosition hsample)
  · simpa using ((ran_setPolls 0 v).trans r).trans (ran_atPosition op pos w)

/-- What a sample adds to `POLLS`: one, unless it fails (R31). -/
def samplesCounted : BusyAnswer → Nat
  | .ok _ => 1
  | .err _ => 0

theorem readBusy_counts (s : State) : s.readBusy.polls = s.polls + samplesCounted (s.busyAnswer 0) := by
  cases h : s.busyAnswer 0 with
  | ok lvl => exact readBusy_polls h
  | err e => rw [State.readBusy_err s h]; rfl

/-- BUSY_WAIT whose last sample raises: failure entry right after the `k` turns and that sample. -/
theorem busyWait_fails {s : State} {k : Nat} {f : Failure} (hh : ∀ j < k, s.busyAnswer j = .ok .H)
    (hb : s.withinBound k)
    (hraise : ∀ w : State, w.cfg = s.cfg → w.polls = k → w.busyAnswer 0 = s.busyAnswer k →
      Primitive.flow w .pinRead = .fail f) :
    ∃ t0 t : State, exec .busyWait s = .next t0 ∧ Host.Core.run Sys2Proof.core (2 * k + 1) t0 = .next t ∧
      s.EndsWith t (pollTurns k s.cfg.tPollMs ++ [.sample (s.busyAnswer k)]) f.code f.native .FAULTED s.viol s.refd ∧
      t.polls = k + samplesCounted (s.busyAnswer k) := by
  have hviol := viol_of_validIn (op := .busyWait) (ph := s.phase) rfl s.viol
  obtain ⟨w, hrun, r, hpolls⟩ :=
    run_to_sample (v := begun .busyWait Latches.none s) (op := .busyWait) (pos := 0) k rfl rfl hh hb
  have ha : w.busyAnswer 0 = s.busyAnswer k := by rw [r.busyAnswer, Nat.zero_add]; rfl
  rw [hraise w r.cfg hpolls ha] at hrun
  have hsample := r.toEmitted.trans (emitted_perform .pinRead w)
  rw [Primitive.event, ha] at hsample
  have hcount := readBusy_counts w
  rw [hpolls, ha] at hcount
  exact ⟨s.start .busyWait Latches.none, _, rfl, hrun, hviol ▸ (endsWith_failureEntry f hsample).1, hcount⟩

/-- Settles O27: the failing sample raises before it is counted. -/
theorem failingSampleEndsTheWait : Obligations.FailingSampleEndsTheWait := by
  intro s k e hh he hb
  have hfails := busyWait_fails (f := .pin e) hh hb (fun w _ _ ha => by simp [Primitive.flow, ha, he])
  rw [he] at hfails
  exact hfails

/-- Settles O28: the sample that reaches the bound is counted and then times out. -/
theorem boundedWaitTimesOut : Obligations.BoundedWaitTimesOut := by
  intro s n hmax hh
  have hlast : s.busyAnswer n = .ok .H := hh n (Nat.lt_succ_self n)
  have hb : s.withinBound n := fun N hN => by
    rw [hmax] at hN; cases hN; exact Nat.lt_succ_self n
  have hraise : ∀ w : State, w.cfg = s.cfg → w.polls = n → w.busyAnswer 0 = s.busyAnswer n →
      Primitive.flow w .pinRead = .fail .timeout := by
    intro w hcfg hpolls ha
    refine (pinRead_flow_high (ha.trans hlast)).2 fun hw => ?_
    have hlt := hw (n + 1) (by rw [hcfg, hmax]; rfl)
    omega
  have hfails := busyWait_fails (fun j hj => hh j (Nat.lt_succ_of_lt hj)) hb hraise
  rw [hlast] at hfails
  exact hfails

/-! ### The wait without a bound -/

/-- A block that waits stands at a sample, and its sleep is the next primitive. -/
theorem waiting_iff {s : State} : s.waiting = true ↔
    ∃ op pos, s.seq = .run op pos ∧ (s.sequence op)[pos]? = some .pinRead := by
  unfold State.waiting
  cases hs : s.seq with
  | idle => simp
  | run op pos => simp
  | release op pos e => simp

/-- Without a bound, `n` samples of `H` are `n` turns of the loop, after which the block stands where it stood. -/
theorem run_unbounded_turns {s : State} {n : Nat} (hw : s.waiting = true) (hmax : s.cfg.busyMaxSamples = none)
    (hh : ∀ j < n, s.busyAnswer j = .ok .H) :
    ∃ t : State, Host.Core.run Sys2Proof.core (2 * n) s = .next t ∧ t.seq = s.seq ∧ t.waiting = true ∧
      t.lastRsp = s.lastRsp ∧ t.history = s.history ++ pollTurns n s.cfg.tPollMs := by
  obtain ⟨op, pos, hs, hm⟩ := waiting_iff.mp hw
  have hsleep := (sequence_waitsPaired s.cfg s.latches op).after_pinRead hm
  obtain ⟨w, hrun, r, -⟩ := run_turns n s hm hsleep hh (fun N hN => by rw [hmax] at hN; cases hN)
  have hself : s.atPosition op pos = s := by rw [State.atPosition, ← hs]
  rw [hself] at hrun
  exact ⟨w.atPosition op pos, hrun, hs.symm, waiting_iff.mpr ⟨op, pos, rfl, (r.sequence op).symm ▸ hm⟩, r.lastRsp,
    r.history⟩

/-- Settles O29: BUSY_WAIT begins at its sample, from which its turns are those of any wait. -/
theorem unboundedWaitGoesOnWhileBusy : Obligations.UnboundedWaitGoesOnWhileBusy := by
  refine ⟨fun s n hmax hh => ?_, fun s n => run_unbounded_turns⟩
  obtain ⟨t, hrun, hseq, hwaits, hlast, hhist⟩ :=
    run_unbounded_turns (s := s.start .busyWait Latches.none) rfl hmax hh
  exact ⟨_, t, rfl, hrun, by rw [hseq]; exact Seq.noConfusion, hwaits, hlast, hhist⟩

/-! ### What a step leaves unchanged -/

/-- An operation whose requests pass every check is begun by each of its instructions (R67, R126). -/
theorem exec_starts_of_unchecked {i : Instr} {op : Operation} {s t : State} (ho : operation i = some op)
    (hop : op ∉ [Operation.sendCommand, .sendCommandData, .updatePlane]) (h : exec i s = .next t) :
    ∃ l, t = s.start op l := by
  simp only [List.mem_cons, List.not_mem_nil, or_false, not_or] at hop
  obtain ⟨hsend, hdata, hplane⟩ := hop
  rcases exec_cases h with ⟨op', l, ho', -, ht⟩ | ⟨-, hturned⟩ | ⟨-, hturned, -⟩
  · cases ho.symm.trans ho'; exact ⟨l, ht⟩
  · simp [ho, hsend, hdata, hplane] at hturned
  · simp [ho, hplane] at hturned

/-- An operation without a write stands at a primitive, never at a release (R90). -/
theorem run_of_no_write {s : State} {op : Operation} (hat : s.atPrimitive = true) (ho : s.operating = some op)
    (hw : ∀ P, .busWrite P ∉ s.sequence op) :
    ∃ pos m, s.seq = .run op pos ∧ (s.sequence op)[pos]? = some m := by
  unfold State.operating at ho
  cases hs : s.seq with
  | idle => rw [hs] at ho; cases ho
  | run op' pos =>
    rw [hs] at ho; cases ho
    obtain ⟨m, hm⟩ := (atPrimitive_run_iff hs).mp hat
    exact ⟨pos, m, rfl, hm⟩
  | release op' pos e =>
    rw [hs] at ho; cases ho
    unfold State.atPrimitive at hat
    simp only [hs] at hat
    split at hat
    · next P hm => exact absurd (List.mem_of_getElem? hm) (hw P)
    all_goals cases hat

/-- Moving on takes no answer. -/
theorem enter_streams (op : Operation) (pos : Nat) (v : State) :
    (v.enter op pos).pinIn = v.pinIn ∧ (v.enter op pos).busyIn = v.busyIn ∧ (v.enter op pos).busIn = v.busIn := by
  cases hm : (v.sequence op)[pos]? with
  | none => rw [enter_none hm]; exact ⟨rfl, rfl, rfl⟩
  | some m => rw [enter_some hm]; cases m <;> exact ⟨rfl, rfl, rfl⟩

theorem follow_streams (op : Operation) (pos : Nat) (f : Flow) (v : State) :
    (v.follow op pos f).pinIn = v.pinIn ∧ (v.follow op pos f).busyIn = v.busyIn ∧
      (v.follow op pos f).busIn = v.busIn := by
  cases f with
  | advance => exact enter_streams op _ v
  | leaveWait => exact enter_streams op _ v
  | repeatWait => exact ⟨rfl, rfl, rfl⟩
  | fail f => exact ⟨rfl, rfl, rfl⟩
  | release e => exact ⟨rfl, rfl, rfl⟩

/-- A step at a primitive takes the answers of that primitive alone, and its pins follow that primitive's event. -/
theorem step_frame {s t : State} {op : Operation} {pos : Nat} {m : Primitive} (hs : s.seq = .run op pos)
    (hm : (s.sequence op)[pos]? = some m) (h : step s = .next t) :
    (∀ p, t.pin p = (m.event s).record p (s.pin p)) ∧ (m.pinSets = 0 → t.pinIn = s.pinIn) ∧
      (m.writes = 0 → t.busIn = s.busIn) ∧ (m.samples = 0 → t.busyIn = s.busyIn) := by
  rw [step_run hs, runPrimitive_some hm] at h
  cases h
  have r := ran_perform m s
  obtain ⟨hpinIn, hbusyIn, hbusIn⟩ := follow_streams op pos (m.flow s) (m.perform s)
  obtain ⟨-, -, -, -, hpin, -⟩ := (follow_ends op pos (m.flow s) (m.perform s)).frame
  exact ⟨fun p => (hpin p).trans (r.pin p), fun h => hpinIn.trans (r.pinIn h), fun h => hbusIn.trans (r.busIn h),
    fun h => hbusyIn.trans (r.busyIn h)⟩

/-- Moving on through a sequence without a sample starts no wait (R31). -/
theorem enter_polls_of_no_sample {op : Operation} {v : State} (h : .pinRead ∉ v.sequence op) (pos : Nat) :
    (v.enter op pos).polls = v.polls := by
  cases hm : (v.sequence op)[pos]? with
  | none => rw [enter_none hm]; rfl
  | some m =>
    have hne : m ≠ .pinRead := by rintro rfl; exact h (List.mem_of_getElem? hm)
    rw [enter_some hm, arrive_of_ne_pinRead hne]
    rfl

/-- A step of an operation without a sample leaves `POLLS` alone (R31). -/
theorem step_polls_of_no_sample {s t : State} {op : Operation} {pos : Nat} {m : Primitive} (hs : s.seq = .run op pos)
    (hm : (s.sequence op)[pos]? = some m) (hsample : .pinRead ∉ s.sequence op) (h : step s = .next t) :
    t.polls = s.polls := by
  have hne : m ≠ .pinRead := by rintro rfl; exact hsample (List.mem_of_getElem? hm)
  have henter := enter_polls_of_no_sample ((emitted_perform m s).sequence op ▸ hsample)
  rw [← perform_polls hne s]
  rcases step_primitive hs hm h with ⟨-, -, rfl⟩ | ⟨rfl, -⟩ | ⟨rfl, -⟩ | ⟨k, n, -, -, -, -, rfl⟩ | ⟨f, -, rfl⟩ |
    ⟨P, x, -, -, -, rfl⟩
  · exact henter _
  · exact absurd rfl hne
  · exact absurd rfl hne
  · rfl
  · rfl
  · rfl

/-- The primitives of the reset pulse drive RST or sleep (R100). -/
theorem resetPulse_cases {c : Config} {m : Primitive} (h : m ∈ resetPulse c) :
    (∃ lvl, m = .pinSet .RST lvl) ∨ ∃ ms, m = .sleep ms := by
  simp only [resetPulse, List.mem_cons, List.not_mem_nil, or_false] at h
  rcases h with rfl | rfl | rfl | rfl
  · exact .inl ⟨_, rfl⟩
  · exact .inr ⟨_, rfl⟩
  · exact .inl ⟨_, rfl⟩
  · exact .inr ⟨_, rfl⟩

/-- Settles O46: RESET is never turned away, and each of its primitives drives RST or sleeps. -/
theorem resetTouchesOnlyItsLine : Obligations.ResetTouchesOnlyItsLine := by
  rintro s t hat (⟨i, ho, h⟩ | ⟨ho, h⟩)
  · obtain ⟨l, rfl⟩ := exec_starts_of_unchecked ho (by decide) h
    rw [start_eq]
    exact ⟨rfl, rfl, viol_of_validIn (op := .reset) (ph := s.phase) rfl s.viol, rfl, rfl, rfl, rfl, rfl, rfl⟩
  · obtain ⟨pos, m, hs, hm⟩ := run_of_no_write hat ho (fun P hP => by simpa using resetPulse_cases hP)
    obtain ⟨hpin, -, hbus, hbusy⟩ := step_frame hs hm h
    have hpolls := step_polls_of_no_sample hs hm (fun hr => by simpa using resetPulse_cases hr) h
    obtain ⟨hcfg, hreq, hviol, hrefd, -⟩ := operating_frame ho h
    rcases resetPulse_cases (List.mem_of_getElem? hm) with ⟨lvl, rfl⟩ | ⟨ms, rfl⟩ <;>
      exact ⟨hpin .CS, hpin .DC, hviol, hrefd, hpolls, hbusy rfl, hbus rfl, hcfg, hreq⟩

/-- The primitives of BusyWait sample or sleep (R102). -/
theorem busyWait_cases {c : Config} {m : Primitive} (h : m ∈ busyWait c) :
    m = .pinRead ∨ m = .pollSleep c.tPollMs := by simpa [busyWait] using h

/-- Settles O47: BUSY_WAIT is never turned away, and each of its primitives samples or sleeps. -/
theorem busyWaitTouchesNoPin : Obligations.BusyWaitTouchesNoPin := by
  rintro s t hat (⟨i, ho, h⟩ | ⟨ho, h⟩)
  · obtain ⟨l, rfl⟩ := exec_starts_of_unchecked ho (by decide) h
    rw [start_eq]
    exact ⟨rfl, rfl, rfl, viol_of_validIn (op := .busyWait) (ph := s.phase) rfl s.viol, rfl, rfl, rfl, rfl, rfl⟩
  · obtain ⟨pos, m, hs, hm⟩ := run_of_no_write hat ho (fun P hP => by simpa using busyWait_cases hP)
    obtain ⟨hpin, hpinIn, hbus, -⟩ := step_frame hs hm h
    obtain ⟨hcfg, hreq, hviol, hrefd, -⟩ := operating_frame ho h
    rcases busyWait_cases (List.mem_of_getElem? hm) with rfl | rfl <;>
      exact ⟨hpin .CS, hpin .DC, hpin .RST, hviol, hrefd, hpinIn rfl, hbus rfl, hcfg, hreq⟩

end Sys2Proof.Machine
end

section
/-! PROOFS of the family 42_address_init.md, part 1: an operation that completes straight primitives and
whole waits one after the other, so a whole INIT (R112), with its events and its bus writes (R116). -/

namespace Sys2Proof.Machine

/-! ### Beginnings of a sequence -/

/-- From its start in `v`, the operation has completed the first primitives `done` of its sequence and is in `u`: one
step an event, `np` pin answers, `nw` write answers and `nb` samples taken. -/
structure Completed (op : Operation) (v : State) (done : List Primitive) (u : State) (evs : List Event)
    (np nw nb : Nat) : Prop extends Ran v u evs np nw nb where
  run : Host.Core.run Sys2Proof.core evs.length (v.enter op 0) = .next (u.enter op done.length)

theorem completed_nil (op : Operation) (v : State) : Completed op v [] v [] 0 0 0 := ⟨Ran.refl v, rfl⟩

section GoingOn

variable {op : Operation} {v u : State} {done : List Primitive} {evs : List Event} {np nw nb : Nat}
  (h : Completed op v done u evs np nw nb)

include h

/-- A run on from there completes more. -/
theorem Completed.trans {ms : List Primitive} {w : State} {evs' : List Event} {np' nw' nb' : Nat}
    (r : Ran u w evs' np' nw' nb') (hrun : Host.Core.run Sys2Proof.core evs'.length (u.enter op done.length) =
      .next (w.enter op (done.length + ms.length))) :
    Completed op v (done ++ ms) w (evs ++ evs') (np + np') (nw + nw') (nb + nb') where
  toRan := h.toRan.trans r
  run := by rw [List.length_append, run_add Sys2Proof.core _ _ _ _ h.run, hrun, List.length_append]

/-- Straight primitives come next, and their answers are `ok`. -/
theorem Completed.straight {ms : List Primitive} (hseq : done ++ ms <+: v.sequence op)
    (hall : ∀ m ∈ ms, m.straight = true) (hp : v.pinsOk (np + pinSetsOf ms)) (hw : v.busOk (nw + writesOf ms)) :
    ∃ w, Completed op v (done ++ ms) w (evs ++ okEventsOf ms) (np + pinSetsOf ms) (nw + writesOf ms) nb ∧
      w.polls = u.polls := by
  obtain ⟨rest, hrest⟩ := hseq
  obtain ⟨w, hrun, r, hpolls⟩ := run_straight op ms hall done rest u ((h.sequence op).trans hrest.symm)
    (fun k hk => by rw [h.pinAnswer]; exact hp _ (by omega)) (fun k hk => by rw [h.busAnswer]; exact hw _ (by omega))
  exact ⟨w, h.trans r (by rw [okEventsOf, List.length_map]; exact hrun), hpolls⟩

/-- A wait comes next: `k` samples of `H`, then one of `L`. -/
theorem Completed.wait {c : Config} {k : Nat} (hseq : done ++ busyWait c <+: v.sequence op)
    (hk : v.busyThenReady nb k) (hb : v.withinBound k) :
    ∃ w, Completed op v (done ++ busyWait c) w (evs ++ (pollTurns k c.tPollMs ++ [.sample (.ok .L)])) np nw
        (nb + (k + 1)) ∧ w.polls = k + 1 := by
  have hsamples : u.busyThenReady 0 k :=
    ⟨fun j hj => by rw [h.busyAnswer, Nat.zero_add, Nat.add_comm]; exact hk.1 j hj,
      by rw [h.busyAnswer, Nat.zero_add, Nat.add_comm]; exact hk.2⟩
  obtain ⟨rest, hrest⟩ := hseq
  obtain ⟨w, hrun, r, hpolls⟩ := run_wait (v := u) (op := op) (pos := done.length) (ms := c.tPollMs) k
    (by simp [h.sequence, ← hrest, busyWait]) (by simp [h.sequence, ← hrest, busyWait]) hsamples
    (fun n hn => hb n (by rwa [← h.cfg]))
  exact ⟨w, h.trans r (by simpa [busyWait] using hrun), hpolls⟩

end GoingOn

/-- An operation that has completed its whole sequence ends `OK`. -/
theorem Completed.run_returnOk {op : Operation} {l : Latches} {s u : State} {evs : List Event} {np nw nb : Nat}
    (h : Completed op (begun op l s) (op.primitives s.cfg l) u evs np nw nb) :
    Host.Core.run Sys2Proof.core evs.length (s.start op l) = .next (u.returnOk op) := by
  have hend : (u.sequence op)[(op.primitives s.cfg l).length]? = none := by rw [h.sequence, begun_sequence]; simp
  rw [← enter_none hend]
  exact h.run

/-! ### INIT's sequence and its events -/

/-- INIT's steps S5 to S11 (R112). -/
def configuration (c : Config) : List Primitive :=
  [InitStep.S5, .S6, .S7, .S8, .S9, .S10, .S11].flatMap (InitStep.primitives c)

theorem initPrimitives_eq (c : Config) : initPrimitives c =
    resetPulse c ++ busyWait c ++ cmdFrame c.opcodes.swReset ++ busyWait c ++ configuration c := by
  simp [initPrimitives, InitStep.all, InitStep.primitives, configuration]

/-- The events and counts of the reset pulse (R100). -/
theorem resetPulse_straight (c : Config) : okEventsOf (resetPulse c) =
      [.set .RST .L .ok, .sleep c.tResetLowMs, .set .RST .H .ok, .sleep c.tResetHighMs] ∧
    pinSetsOf (resetPulse c) = 2 ∧ writesOf (resetPulse c) = 0 ∧ ∀ m ∈ resetPulse c, m.straight = true :=
  ⟨rfl, rfl, rfl, by simp [resetPulse, Primitive.straight]⟩

/-- The events and counts of S5 to S11. -/
theorem configuration_straight (c : Config) : okEventsOf (configuration c) = configurationEvents c ∧
    5 + pinSetsOf (configuration c) = initPinSets c ∧ 1 + writesOf (configuration c) = initWrites c ∧
    ∀ m ∈ configuration c, m.straight = true := by
  have hframes := cmdDataFrame_straight
  simp only [forall_and] at hframes
  obtain ⟨hevents, hpins, hwrites, hall⟩ := hframes
  simp only [configuration, InitStep.primitives, List.flatMap_cons, List.flatMap_nil, List.append_nil]
  refine ⟨?_, ?_, ?_, ?_⟩
  · simp [hevents, configurationEvents, ramXWindowPayload_eq, ramYWindowPayload_eq, xWindow, yWindow,
      driverOutputControlPayload]
  · simp [hpins, initPinSets, extraPinSets]
    omega
  · simp [hwrites, initWrites, extraWrites]
    omega
  · simp only [List.forall_mem_append]
    exact ⟨hall _ _, hall _ _, hall _ _, hall _ _, hall _ _, hall _ _, hall _ _⟩

/-! ### A whole INIT -/

/-- INIT's eleven steps, with two waits of `k1` and `k2` samples of `H` and every other answer `ok`. -/
theorem init_completed {s : State} {k1 k2 : Nat} (l : Latches) (h1 : s.busyThenReady 0 k1)
    (h2 : s.busyThenReady (k1 + 1) k2) (hb1 : s.withinBound k1) (hb2 : s.withinBound k2)
    (hp : s.pinsOk (initPinSets s.cfg)) (hw : s.busOk (initWrites s.cfg)) :
    ∃ u, Completed .init (begun .init l s) (initPrimitives s.cfg) u (initEvents s.cfg k1 k2) (initPinSets s.cfg)
        (initWrites s.cfg) (k1 + 1 + (k2 + 1)) ∧ u.polls = k2 + 1 := by
  obtain ⟨hre, hrp, hrw, hrs⟩ := resetPulse_straight s.cfg
  obtain ⟨hce, hcp, hcw, hcs⟩ := cmdFrame_straight s.cfg.opcodes.swReset
  obtain ⟨hfe, hfp, hfw, hfs⟩ := configuration_straight s.cfg
  have hseq : (begun .init l s).sequence .init = _ := initPrimitives_eq s.cfg
  have hpins : ∀ n ≤ initPinSets s.cfg, (begun .init l s).pinsOk n := fun n hn k hk => hp k (by omega)
  have hwrites : ∀ n ≤ initWrites s.cfg, (begun .init l s).busOk n := fun n hn k hk => hw k (by omega)
  obtain ⟨u1, c1, -⟩ := (completed_nil .init (begun .init l s)).straight (ms := resetPulse s.cfg) (by simp [hseq]) hrs
    (hpins _ (by omega)) (hwrites _ (by omega))
  obtain ⟨u2, c2, -⟩ := c1.wait (c := s.cfg) (by simp [hseq]) h1 hb1
  obtain ⟨u3, c3, -⟩ := c2.straight (by simp [hseq]) hcs (hpins _ (by omega)) (hwrites _ (by omega))
  obtain ⟨u4, c4, hpolls⟩ := c3.wait (c := s.cfg) (by simp [hseq]) (by rw [Nat.zero_add]; exact h2) hb2
  obtain ⟨u5, c5, hsame⟩ := c4.straight (by simp [hseq]) hfs (hpins _ (by omega)) (hwrites _ (by omega))
  refine ⟨u5, ?_, hsame.trans hpolls⟩
  rw [initPrimitives_eq]
  simpa only [initEvents, hre, hce, hfe, hrp, hcp, hfp, hrw, hcw, hfw, List.append_assoc, List.nil_append,
    Nat.reduceAdd, Nat.zero_add] using c5

/-! ### What INIT leaves on the lines, and what it writes -/

/-- The frames of a command leave chip-select `H`. -/
@[simp] theorem lineAfter_cs_cmdDataFrameOk (v : PinLevel) (c : Byte) (opt : Option (List Byte)) :
    lineAfter .CS v (cmdDataFrameOk c opt) = .H := by
  cases opt <;> rfl

/-- They do not drive RST. -/
@[simp] theorem lineAfter_rst_cmdFrameOk (v : PinLevel) (c : Byte) : lineAfter .RST v (cmdFrameOk c) = v := rfl

@[simp] theorem lineAfter_rst_cmdDataFrameOk (v : PinLevel) (c : Byte) (opt : Option (List Byte)) :
    lineAfter .RST v (cmdDataFrameOk c opt) = v := by
  cases opt <;> rfl

/-- What is written does not depend on the lines. -/
theorem map_bytes_transactions (h : List Event) : ∀ dc cs, (transactions dc cs h).map (·.bytes) = writes h := by
  unfold writes
  induction h with
  | nil => exact fun _ _ => rfl
  | cons e h ih =>
    intro dc cs
    cases e with
    | write P a => exact congrArg (P :: ·) (ih dc cs)
    | set p lvl a => exact (ih _ _).trans (ih _ _).symm
    | _ => exact ih dc cs

@[simp] theorem writes_append (a b : List Event) : writes (a ++ b) = writes a ++ writes b := by
  rw [writes, transactions_append, List.map_append, map_bytes_transactions, map_bytes_transactions]

/-- Pin sets, sleeps and samples write nothing. -/
@[simp] theorem writes_set (p : OutPin) (lvl : Level) (a : PinAnswer) (h : List Event) :
    writes (.set p lvl a :: h) = writes h := map_bytes_transactions h _ _
@[simp] theorem writes_sleep (ms : Nat) (h : List Event) : writes (.sleep ms :: h) = writes h := rfl
@[simp] theorem writes_sample (a : BusyAnswer) (h : List Event) : writes (.sample a :: h) = writes h := rfl

/-- A wait writes nothing. -/
@[simp] theorem writes_pollTurns (k ms : Nat) : writes (pollTurns k ms) = [] := by
  induction k with
  | zero => rfl
  | succ k ih => rw [pollTurns_succ, writes_append, ih]; rfl

@[simp] theorem writes_cmdFrameOk (c : Byte) : writes (cmdFrameOk c) = [[c]] := rfl

/-- The frames of a command write its byte, then the payload that is present. -/
@[simp] theorem writes_cmdDataFrameOk (c : Byte) (opt : Option (List Byte)) :
    writes (cmdDataFrameOk c opt) = [c] :: opt.toList := by
  cases opt <;> rfl

/-- What INIT writes (R116), with the window payloads of the record. -/
theorem writes_initEvents (c : Config) (k1 k2 : Nat) : writes (initEvents c k1 k2) =
    [[c.opcodes.swReset], [c.opcodes.driverOutputControl], [0xD3#8, 0x00#8, 0x00#8], [c.opcodes.dataEntryMode],
      c.demPayload, [c.opcodes.ramXWindow], xWindow c, [c.opcodes.ramYWindow], yWindow c,
      [c.opcodes.borderWaveform]] ++
    c.bwfPayload.toList ++ [[c.opcodes.duc1]] ++ c.duc1Payload.toList ++ [[c.opcodes.duc2]] ++
    c.duc2Payload.toList := by
  simp [initEvents, configurationEvents]

/-! ### INIT completes -/

/-- Settles O31: the completed pieces are INIT's whole sequence, and INIT is valid in every phase. -/
theorem initCompletes : Obligations.InitCompletes := by
  intro s k1 k2 h1 h2 hb1 hb2 hp hw
  have hviol := viol_of_validIn (op := .init) (ph := s.phase) rfl s.viol
  obtain ⟨u, hc, hpolls⟩ := init_completed Latches.none h1 h2 hb1 hb2 hp hw
  obtain ⟨hend, hpin⟩ := endsWith_returnOk hc.toEmitted
  refine ⟨_, u.returnOk .init, rfl, hc.run_returnOk, hviol ▸ hend, (hpin .RST).trans ?_, (hpin .CS).trans ?_, hpolls⟩
  · simp [initEvents, configurationEvents, Event.record, recordedLevel, knownLevel]
  · simp [initEvents, configurationEvents]

/-- Settles O32: the run of `initCompletes`, whose window payloads are those of R7's rows and columns. -/
theorem initWritesInTheFixedOrder : Obligations.InitWritesInTheFixedOrder := by
  intro s k1 k2 hg h1 h2 hb1 hb2 hp hw
  obtain ⟨hrows, hcols, -⟩ := (panelGeometry_iff s.cfg).mp hg
  obtain ⟨t0, t, hexec, hrun, hend, -⟩ := initCompletes s k1 k2 h1 h2 hb1 hb2 hp hw
  refine ⟨_, t0, t, _, hexec, hrun, hend.history, ?_⟩
  rw [writes_initEvents, xWindow, yWindow, hrows, hcols]

end Sys2Proof.Machine
end

section
/-! PROOFS of the family 42_address_init.md, part 2: INIT goes through its states in order (R113, R114), and what a step
of INIT and of REFRESH leaves unchanged (R112, R128). -/

namespace Sys2Proof.Machine

/-! ### The states of INIT -/

/-- The primitives of the states `ks`. -/
def InitStep.sequence (c : Config) (ks : List InitStep) : List Primitive := ks.flatMap (InitStep.primitives c)

@[simp] theorem InitStep.sequence_cons (c : Config) (k : InitStep) (ks : List InitStep) :
    InitStep.sequence c (k :: ks) = k.primitives c ++ InitStep.sequence c ks := rfl

/-- Every state begins with a primitive, and not with a poll sleep (R102, R113). -/
theorem initStep_first (c : Config) (k : InitStep) :
    0 < (k.primitives c).length ∧ ∀ n, (k.primitives c)[0]? ≠ some (.pollSleep n) := by
  have hframe : ∀ b opt, 0 < (cmdDataFrame b opt).length ∧ ∀ n, (cmdDataFrame b opt)[0]? ≠ some (.pollSleep n) := by
    intro b opt
    cases opt <;> simp [cmdDataFrame, cmdFrame]
  cases k with
  | S1 => simp [InitStep.primitives, resetPulse]
  | S2 => simp [InitStep.primitives, busyWait]
  | S3 => exact hframe _ none
  | S4 => simp [InitStep.primitives, busyWait]
  | _ => simp only [InitStep.primitives, hframe, not_false_eq_true, implies_true, ne_eq, and_self]

/-- A position is in some state exactly if the states' sequence has it. -/
theorem find_isSome_iff (c : Config) (ks : List InitStep) : ∀ pos,
    (InitStep.find c ks pos).isSome = true ↔ pos < (InitStep.sequence c ks).length := by
  induction ks with
  | nil => intro pos; simp [InitStep.find, InitStep.sequence]
  | cons k ks ih =>
    intro pos
    rw [InitStep.find, InitStep.sequence_cons, List.length_append]
    split
    · simp; omega
    · rw [ih]; omega

/-- The position after one in state `k`: in `k` as well; past the end, and then `k` is the last state; or the first of
the state after `k`. -/
theorem find_succ (c : Config) (ks : List InitStep) : ∀ {pos : Nat} {k : InitStep}, InitStep.find c ks pos = some k →
    InitStep.find c ks (pos + 1) = some k ∨
    (InitStep.find c ks (pos + 1) = none ∧ ks.getLast? = some k) ∨
    ∃ k', InitStep.find c ks (pos + 1) = some k' ∧ (k, k') ∈ ks.zip ks.tail ∧
      (InitStep.sequence c ks)[pos + 1]? = (k'.primitives c)[0]? := by
  induction ks with
  | nil => intro pos k h; cases h
  | cons a ks ih =>
    intro pos k h
    rw [InitStep.find] at h ⊢
    rw [InitStep.sequence_cons]
    split at h
    · next hlt =>
      cases h
      split
      · exact .inl rfl
      · have hend : pos + 1 = (a.primitives c).length := by omega
        rw [hend, Nat.sub_self]
        cases ks with
        | nil => exact .inr (.inl ⟨rfl, rfl⟩)
        | cons b ks =>
          have hb := (initStep_first c b).1
          exact .inr (.inr ⟨b, by simp [InitStep.find, hb], by simp, by simp [hb]⟩)
    · next hge =>
      rw [if_neg (by omega), show pos + 1 - (a.primitives c).length = pos - (a.primitives c).length + 1 by omega]
      rcases ih h with hk | ⟨hnone, hlast⟩ | ⟨k', hk', hzip, hfirst⟩
      · exact .inl hk
      · exact .inr (.inl ⟨hnone, by rw [List.getLast?_cons, hlast]; rfl⟩)
      · refine .inr (.inr ⟨k', hk', ?_, ?_⟩)
        · cases ks with
          | nil => cases hzip
          | cons b ks => exact List.mem_cons_of_mem _ hzip
        · rw [← hfirst, List.getElem?_append_right (by omega)]
          congr 1; omega

/-- A position is in a state of INIT exactly if INIT's sequence has it. -/
theorem initStepAt_isSome_iff (c : Config) (pos : Nat) :
    (initStepAt c pos).isSome = true ↔ pos < (initPrimitives c).length := find_isSome_iff c InitStep.all pos

theorem initStepAt_eq_none_iff (c : Config) (pos : Nat) :
    initStepAt c pos = none ↔ (initPrimitives c)[pos]? = none := by
  rw [List.getElem?_eq_none_iff, ← Nat.not_lt, ← initStepAt_isSome_iff]
  simp

theorem initStepAt_of_getElem? {c : Config} {pos : Nat} {m : Primitive} (hm : (initPrimitives c)[pos]? = some m) :
    ∃ k, initStepAt c pos = some k :=
  Option.isSome_iff_exists.mp ((initStepAt_isSome_iff c pos).mpr (List.getElem?_eq_some_iff.mp hm).1)

/-- A poll sleep is in the state of the sample before it. -/
theorem initStepAt_pollSleep {c : Config} {pos n : Nat} {k : InitStep} (hk : initStepAt c pos = some k)
    (hm : (initPrimitives c)[pos + 1]? = some (.pollSleep n)) : initStepAt c (pos + 1) = some k := by
  rcases find_succ c InitStep.all hk with h | ⟨hnone, -⟩ | ⟨k', -, -, hfirst⟩
  · exact h
  · cases ((initStepAt_eq_none_iff c _).mp hnone).symm.trans hm
  · exact absurd (hfirst.symm.trans hm) ((initStep_first c k').2 n)

/-! ### The steps of INIT -/

/-- Where a step of INIT at `pos`, in state `k`, may lead (R113, R114): to a position in `k` or in its successor, to the
release of the write at `pos`, or to `IDLE`, with `OK` from `S11` and with a failure from anywhere. -/
def InitGoesOn (pos : Nat) (k : InitStep) (t : State) : Prop :=
  (∃ pos' k', t.seq = .run .init pos' ∧ initStepAt t.cfg pos' = some k' ∧
    (k' = k ∨ (k, k') ∈ InitStep.all.zip InitStep.all.tail)) ∨
  (∃ e, t.seq = .release .init pos e) ∨
  (t.seq = .idle ∧ ∃ r, t.lastRsp = some r ∧
    ((k = .S11 ∧ r.code = .ok ∧ t.phase = .INITIALIZED) ∨ (r.code ≠ .ok ∧ t.phase = .FAULTED)))

/-- Moving on past `pos`, in state `k`, in a step from `pos₀`: to `k` or its successor, and past the end to `OK`. -/
theorem initGoesOn_enter {v : State} {pos : Nat} {k : InitStep} (hk : initStepAt v.cfg pos = some k) (pos₀ : Nat) :
    InitGoesOn pos₀ k (v.enter .init (pos + 1)) := by
  obtain ⟨hcfg, -⟩ := (enter_ends .init (pos + 1) v).frame
  have goes : ∀ k', initStepAt v.cfg (pos + 1) = some k' →
      (k' = k ∨ (k, k') ∈ InitStep.all.zip InitStep.all.tail) → InitGoesOn pos₀ k (v.enter .init (pos + 1)) := by
    intro k' hk' hsucc
    have hlt := (initStepAt_isSome_iff v.cfg (pos + 1)).mp (by rw [hk']; rfl)
    exact .inl ⟨pos + 1, k', (enter_seq _ _ _).trans (if_pos hlt), by rw [hcfg]; exact hk', hsucc⟩
  rcases find_succ v.cfg InitStep.all hk with h | ⟨hnone, hlast⟩ | ⟨k', h, hzip, -⟩
  · exact goes k h (.inl rfl)
  · rw [enter_none ((initStepAt_eq_none_iff v.cfg _).mp hnone)]
    exact .inr (.inr ⟨rfl, _, rfl, .inl ⟨(Option.some.inj hlast).symm, rfl, rfl⟩⟩)
  · exact goes k' h (.inr hzip)

/-- A failure ends INIT in any state (R142). -/
theorem initGoesOn_failureEntry (pos : Nat) (k : InitStep) (f : Failure) (v : State) :
    InitGoesOn pos k (v.failureEntry f) :=
  .inr (.inr ⟨rfl, _, rfl, .inr ⟨by cases f <;> exact RspCode.noConfusion, rfl⟩⟩)

/-- Settles O33: a primitive that completes moves on within its state or to the next; the sample and the sleep of a wait
are in one state, so the loop stays in it. -/
theorem initStepsRunInOrder : Obligations.InitStepsRunInOrder := by
  refine ⟨fun c => rfl, fun s t pos k hs hk hst => show InitGoesOn pos k t from ?_⟩
  obtain ⟨m, hm⟩ : ∃ m, (s.sequence .init)[pos]? = some m :=
    ⟨_, List.getElem?_eq_getElem ((initStepAt_isSome_iff s.cfg pos).mp (by rw [hk]; rfl))⟩
  have hcfg := (emitted_perform m s).cfg
  rcases step_primitive hs hm hst with ⟨-, -, rfl⟩ | ⟨rfl, -, rfl, hnext⟩ | ⟨rfl, -, rfl, hnext⟩ |
    ⟨j, n, rfl, -, rfl, hj, rfl⟩ | ⟨f, -, rfl⟩ | ⟨P, x, rfl, -, -, rfl⟩
  · exact initGoesOn_enter (by rw [hcfg]; exact hk) pos
  · exact .inl ⟨pos + 1, k, rfl, (congrArg (initStepAt · _) hcfg).trans (initStepAt_pollSleep hk hnext), .inl rfl⟩
  · exact initGoesOn_enter (by rw [hcfg]; exact initStepAt_pollSleep hk hnext) pos
  · obtain ⟨k₀, hk₀⟩ := initStepAt_of_getElem? hj
    obtain rfl : k₀ = k := Option.some.inj ((initStepAt_pollSleep hk₀ hm).symm.trans hk)
    exact .inl ⟨j, k₀, rfl, (congrArg (initStepAt · _) hcfg).trans hk₀, .inl rfl⟩
  · exact initGoesOn_failureEntry pos k f _
  · exact .inr (.inl ⟨x, rfl⟩)

/-! ### The frames of INIT and REFRESH -/

/-- A primitive of the channel drives no RST and takes no sample. -/
theorem onChannel_frame {m : Primitive} (h : m.onChannel) (s : State) :
    (∀ v, (m.event s).record .RST v = v) ∧ m.samples = 0 := by
  cases m with
  | pinSet p lvl => exact ⟨fun v => if_neg h, rfl⟩
  | busWrite P => exact ⟨fun _ => rfl, rfl⟩
  | sleep ms => exact h.elim
  | pinRead => exact h.elim
  | pollSleep ms => exact h.elim

/-- A primitive of BusyWait drives no line and writes nothing. -/
theorem busyWait_frame {c : Config} {m : Primitive} (h : m ∈ busyWait c) (s : State) :
    (∀ p v, (m.event s).record p v = v) ∧ m.pinSets = 0 ∧ m.writes = 0 := by
  rcases busyWait_cases h with rfl | rfl
  · exact ⟨fun _ _ => rfl, rfl, rfl⟩
  · exact ⟨fun _ _ => rfl, rfl, rfl⟩

/-- The primitives of REFRESH: four of the command frame, then those of the wait (R128). -/
theorem refreshPrimitives_getElem? {c : Config} {pos : Nat} {m : Primitive}
    (h : (refreshPrimitives c)[pos]? = some m) :
    (pos < 4 ∧ m.onChannel) ∨ (4 ≤ pos ∧ m ∈ busyWait c) := by
  rw [refreshPrimitives, List.getElem?_append] at h
  split at h
  · next hlt => exact .inl ⟨hlt, onChannel_cmdDataFrame c.opcodes.masterActivation none m (List.mem_of_getElem? h)⟩
  · next hge => exact .inr ⟨Nat.not_lt.mp hge, List.mem_of_getElem? h⟩

/-- What a step of REFRESH leaves of the lines and the answers, by its position. -/
theorem refresh_step_frame {s t : State} {pos : Nat} (hs : s.seq = .run .refresh pos) (h : step s = .next t) :
    t.pinRST = s.pinRST ∧
    (4 ≤ pos → t.pinCS = s.pinCS ∧ t.pinDC = s.pinDC ∧ t.pinIn = s.pinIn ∧ t.busIn = s.busIn) ∧
    (pos < 4 → t.busyIn = s.busyIn) := by
  cases hm : (s.sequence .refresh)[pos]? with
  | none =>
    rw [step_run hs, runPrimitive_none hm] at h
    cases h
    exact ⟨rfl, fun _ => ⟨rfl, rfl, rfl, rfl⟩, fun _ => rfl⟩
  | some m =>
    obtain ⟨hpin, hpinIn, hbus, hbusy⟩ := step_frame hs hm h
    rcases refreshPrimitives_getElem? hm with ⟨hlt, hchannel⟩ | ⟨hle, hwait⟩
    · obtain ⟨hrst, hsamples⟩ := onChannel_frame hchannel s
      exact ⟨(hpin .RST).trans (hrst _), fun hle => absurd hlt (Nat.not_lt.mpr hle), fun _ => hbusy hsamples⟩
    · obtain ⟨hrecord, hpins, hwrites⟩ := busyWait_frame hwait s
      exact ⟨(hpin .RST).trans (hrecord _ _), fun _ => ⟨(hpin .CS).trans (hrecord _ _), (hpin .DC).trans (hrecord _ _),
        hpinIn hpins, hbus hwrites⟩, fun hlt => absurd hlt (Nat.not_lt.mpr hle)⟩

/-- Settles O48: INIT is valid in every phase and the start of REFRESH checks the phase; after that only the primitive
at hand acts, and the release drives CS. -/
theorem initAndRefreshFrames : Obligations.InitAndRefreshFrames := by
  refine ⟨?_, ?_, ?_⟩
  · rintro s t (⟨i, ho, h⟩ | ⟨ho, h⟩)
    · obtain ⟨l, rfl⟩ := exec_starts_of_unchecked ho (by decide) h
      rw [start_eq]
      exact ⟨viol_of_validIn (op := .init) (ph := s.phase) rfl s.viol, rfl, rfl, rfl⟩
    · obtain ⟨hcfg, hreq, hviol, hrefd, -⟩ := operating_frame ho h
      exact ⟨hviol, hrefd, hcfg, hreq⟩
  · intro s t h
    obtain ⟨l, rfl⟩ := exec_starts_of_unchecked (op := .refresh) rfl (by decide) h
    rw [start_eq]
    exact ⟨rfl, rfl, rfl, rfl, rfl, rfl, rfl, rfl, rfl, rfl⟩
  · intro s t ho h
    obtain ⟨hcfg, hreq, hviol, hrefd, -⟩ := operating_frame ho h
    unfold State.operating at ho
    cases hs : s.seq with
    | idle => rw [hs] at ho; cases ho
    | run op pos =>
      rw [hs] at ho; cases ho
      obtain ⟨hrst, hwait, hframe⟩ := refresh_step_frame hs h
      refine ⟨hrst, hviol, hrefd, hcfg, hreq, fun pos' hp => ?_, fun pos' hp => ?_⟩
      · cases hp; exact hwait
      · cases hp; exact hframe
    | release op pos e =>
      rw [step_release hs] at h
      cases h
      exact ⟨rfl, hviol, hrefd, hcfg, hreq, fun _ hp => (by cases hp), fun _ hp => (by cases hp)⟩

end Sys2Proof.Machine
end

section
/-! PROOFS of the family 43_plane_refresh.md: a plane of the record's length and one of another length (R125, R126), a
REFRESH that completes, and one whose command frame fails (R128). -/

namespace Sys2Proof.Machine

/-! ### UPDATE_PLANE completes -/

/-- The events of UPDATE_PLANE with every answer `ok`: the counter reset, then the plane's command and its buffer. -/
def updatePlaneEvents (t : Opcodes) (l : Latches) : List Event :=
  cmdFrameOk t.ramXCounter ++ dataFrameOk [0x00#8] ++ cmdFrameOk t.ramYCounter ++ dataFrameOk [0x00#8, 0x00#8] ++
    cmdFrameOk (l.planeOpcode t) ++ dataFrameOk l.p

/-- The events and counts of UPDATE_PLANE's sequence. -/
theorem updatePlane_straight (c : Config) (l : Latches) :
    okEventsOf (updatePlanePrimitives c l) = updatePlaneEvents c.opcodes l ∧
    pinSetsOf (updatePlanePrimitives c l) = 18 ∧ writesOf (updatePlanePrimitives c l) = 6 ∧
    ∀ m ∈ updatePlanePrimitives c l, m.straight = true := by
  obtain ⟨hce, hcp, hcw, hcs⟩ := setAddressCounter_straight c.opcodes 0x00#8 0x0000#16
  obtain ⟨hpe, hpp, hpw, hps⟩ := cmdDataFrame_straight (l.planeOpcode c.opcodes) (some l.p)
  rw [updatePlanePrimitives, okEventsOf_append, pinSetsOf_append, writesOf_append, hce, hcp, hcw, hpe, hpp, hpw]
  exact ⟨rfl, rfl, rfl, List.forall_mem_append.mpr ⟨hcs, hps⟩⟩

/-- A plane of the record's length, with every answer `ok`. -/
theorem startPlane_completes {s : State} {buf : List Byte} (sel : Plane) (hlen : buf.length = s.cfg.planeBytes)
    (hp : s.pinsOk 18) (hw : s.busOk 6) :
    ∃ t : State, Host.Core.run Sys2Proof.core 24 (s.startPlane sel buf) = .next t ∧
      s.EndsWith t (updatePlaneEvents s.cfg.opcodes (Latches.plane sel buf)) .ok none .PLANES_STAGED
        (s.viol || !s.phase.configured) s.refd ∧
      t.pinDC = .H ∧ t.pinCS = .H ∧ t.pinRST = s.pinRST := by
  obtain ⟨hevents, hpins, hwrites, hstraight⟩ := updatePlane_straight s.cfg (Latches.plane sel buf)
  obtain ⟨t, hrun, hend, hpin⟩ := completes_straight .updatePlane (Latches.plane sel buf) s 24 hstraight rfl
    (hpins ▸ hp) (hwrites ▸ hw)
  rw [startPlane_of_length sel hlen]
  exact ⟨t, hrun, hevents ▸ hend, hpin .DC, hpin .CS, hpin .RST⟩

/-- Settles O35: each of the three instructions starts the plane it names. -/
theorem updatePlaneCompletes : Obligations.UpdatePlaneCompletes := by
  intro s buf hlen hp hw p hmem
  obtain ⟨bw, hbw⟩ := startPlane_completes .bw hlen hp hw
  obtain ⟨red, hred⟩ := startPlane_completes .red hlen hp hw
  simp only [List.mem_cons, List.not_mem_nil, or_false] at hmem
  rcases hmem with rfl | rfl | rfl | rfl
  · exact ⟨_, bw, rfl, hbw⟩
  · exact ⟨_, bw, rfl, hbw⟩
  · exact ⟨_, red, rfl, hred⟩
  · exact ⟨_, red, rfl, hred⟩

/-! ### A plane of the wrong length -/

/-- A plane of another length is turned away as the policy says (R126). -/
theorem startPlane_of_failFast {s : State} {buf : List Byte} (sel : Plane) (h : buf.length ≠ s.cfg.planeBytes)
    (hpolicy : s.cfg.lenPolicy = .failFast) : s.startPlane sel buf = s.rejectLength := by
  simp [State.startPlane, h, hpolicy]

theorem startPlane_of_refuse {s : State} {buf : List Byte} (sel : Plane) (h : buf.length ≠ s.cfg.planeBytes)
    (hpolicy : s.cfg.lenPolicy = .refuse) : s.startPlane sel buf = s.refuse := by
  simp [State.startPlane, h, hpolicy]

/-- Settles O36: neither way of turning the plane away drives a pin, whichever plane it is for. -/
theorem wrongPlaneLengthTouchesNothing : Obligations.WrongPlaneLengthTouchesNothing := by
  intro s sel buf hlen i hi
  obtain ⟨sel', hexec⟩ : ∃ sel', exec i s = .next (s.startPlane sel' buf) := by
    simp only [List.mem_cons, List.not_mem_nil, or_false] at hi
    rcases hi with rfl | rfl | rfl
    · exact ⟨sel, rfl⟩
    · exact ⟨.bw, rfl⟩
    · exact ⟨.red, rfl⟩
  rw [hexec]
  cases hpolicy : s.cfg.lenPolicy with
  | failFast =>
    rw [startPlane_of_failFast sel' hlen hpolicy]
    exact ⟨_, rfl, fun _ => endsWith_rejectLength s, LenPolicy.noConfusion, rfl, rfl, rfl⟩
  | refuse =>
    rw [startPlane_of_refuse sel' hlen hpolicy]
    exact ⟨_, rfl, LenPolicy.noConfusion, fun _ => endsWith_refuse s, rfl, rfl, rfl⟩

/-! ### REFRESH completes -/

/-- Settles O37: the command frame and the wait are REFRESH's whole sequence. -/
theorem refreshCompletes : Obligations.RefreshCompletes := by
  intro s k hk hb hp hw
  obtain ⟨hevents, hpins, hwrites, hstraight⟩ := cmdFrame_straight s.cfg.opcodes.masterActivation
  obtain ⟨u, hframe, -⟩ := (completed_nil .refresh (begun .refresh Latches.none s)).straight
    (ms := cmdFrame s.cfg.opcodes.masterActivation) (List.prefix_append _ (busyWait s.cfg)) hstraight
    (by rw [hpins]; exact hp) (by rw [hwrites]; exact hw)
  obtain ⟨w, hwait, hpolls⟩ := hframe.wait (c := s.cfg) List.prefix_rfl hk hb
  rw [List.nil_append, hevents, ← List.append_assoc] at hwait
  obtain ⟨hend, hpin⟩ := endsWith_returnOk hwait.toEmitted
  have hsteps : (cmdFrameOk s.cfg.opcodes.masterActivation ++ pollTurns k s.cfg.tPollMs ++
      [Event.sample (.ok .L)]).length = 4 + (2 * k + 1) := by
    simp [cmdFrameOk]
    omega
  refine ⟨_, w.returnOk .refresh, rfl, hsteps ▸ hwait.run_returnOk, hend, (hpin .DC).trans ?_, (hpin .CS).trans ?_,
    (hpin .RST).trans ?_, hpolls⟩
  · simp [cmdFrameOk, Event.record, recordedLevel, knownLevel]
  · simp [cmdFrameOk, Event.record, recordedLevel, knownLevel]
  · simp [Event.record]

/-! ### The BUSY answers and the samples of the history -/

/-- The event of a BUSY sample (R13). -/
def Event.isSample : Event → Bool
  | .sample _ => true
  | _ => false

/-- The BUSY samples of a history. -/
def samplesIn (h : List Event) : Nat := h.countP Event.isSample

@[simp] theorem samplesIn_append (a b : List Event) : samplesIn (a ++ b) = samplesIn a + samplesIn b :=
  List.countP_append

/-- From `s` to `t` no BUSY answer has been taken without a sample in the history (R11, R13). -/
def SamplesRecorded (s t : State) : Prop :=
  samplesIn s.history ≤ samplesIn t.history ∧ (samplesIn t.history = samplesIn s.history → t.busyIn = s.busyIn)

theorem SamplesRecorded.trans {a b c : State} (h1 : SamplesRecorded a b) (h2 : SamplesRecorded b c) :
    SamplesRecorded a c := by
  obtain ⟨hle1, hbusy1⟩ := h1
  obtain ⟨hle2, hbusy2⟩ := h2
  exact ⟨hle1.trans hle2, fun h => (hbusy2 (by omega)).trans (hbusy1 (by omega))⟩

/-- An instruction takes no sample. -/
theorem exec_busyIn {i : Instr} {s t : State} (h : exec i s = .next t) : t.busyIn = s.busyIn := by
  rcases exec_cases h with ⟨op, l, -, -, rfl⟩ | ⟨rfl, -⟩ | ⟨rfl, -, -⟩
  · rw [start_eq]
  · rfl
  · rfl

/-- BusyWait's sample puts its event in the history. -/
theorem samplesIn_runPrimitive_pinRead {s : State} {op : Operation} {pos : Nat} (hs : s.seq = .run op pos)
    (hm : (s.sequence op)[pos]? = some .pinRead) :
    samplesIn (s.runPrimitive op pos).history = samplesIn s.history + 1 := by
  obtain ⟨t, ht, -, -, -, -, hgoes, hends⟩ := stepRunsOnePrimitive s op pos .pinRead hs hm
  cases (step_run hs).symm.trans ht
  by_cases hidle : (s.runPrimitive op pos).seq = .idle
  · obtain ⟨r, -, hhistory⟩ := hends hidle
    rw [hhistory, samplesIn_append]
    rfl
  · rw [hgoes hidle, samplesIn_append]
    rfl

/-- Only BusyWait's sample takes a BUSY answer. -/
theorem step_samplesRecorded {s t : State} (h : step s = .next t) : SamplesRecorded s t := by
  have untouched : t.busyIn = s.busyIn → SamplesRecorded s t := fun hbusy =>
    ⟨(historyOnlyGrows s t h).sublist.countP_le, fun _ => hbusy⟩
  rcases step_cases h with ⟨rfl, -⟩ | ⟨op, pos, hs, rfl⟩ | ⟨op, pos, e, -, rfl⟩ |
    ⟨r, more, -, -, ⟨why, -, rfl⟩ | ⟨i, -, hi⟩⟩
  · exact untouched rfl
  · cases hm : (s.sequence op)[pos]? with
    | none => exact untouched (by rw [runPrimitive_none hm]; rfl)
    | some m =>
      obtain ⟨-, -, -, hbusy⟩ := step_frame hs hm h
      cases m with
      | pinRead =>
        have hone := samplesIn_runPrimitive_pinRead hs hm
        exact ⟨by omega, fun heq => by omega⟩
      | _ => exact untouched (hbusy rfl)
  · exact untouched rfl
  · exact untouched rfl
  · exact untouched ((exec_busyIn hi).trans (State.accept_busyIn s r more))

/-- A relation that every state has to itself, and that a first step carries on, holds from end to end of a run. -/
theorem run_induction (M : Host.Core) {R : M.State → M.State → Prop} (hrefl : ∀ s, R s s)
    (hstep : ∀ {s u t}, M.step s = .next u → R u t → R s t) :
    ∀ (n : Nat) {s t : M.State}, M.run n s = .next t → R s t := by
  intro n
  induction n with
  | zero => intro s t h; cases h; exact hrefl s
  | succ n ih =>
    intro s t h
    rw [Host.Core.run] at h
    cases hs : M.step s with
    | next u => rw [hs] at h; exact hstep hs (ih h)
    | fault r => rw [hs] at h; cases h
    | refused r => rw [hs] at h; cases h

/-- A run that puts no sample in the history leaves the BUSY answers as they were. -/
theorem run_samplesRecorded {n : Nat} {s t : State} (h : Host.Core.run Sys2Proof.core n s = .next t) :
    SamplesRecorded s t :=
  run_induction Sys2Proof.core (R := SamplesRecorded) (fun _ => ⟨Nat.le_refl _, fun _ => rfl⟩)
    (fun hs hrest => (step_samplesRecorded hs).trans hrest) n h

/-! ### A REFRESH whose command frame fails -/

/-- A sequence that begins with a command frame, one of whose answers is a failure, fails within that frame (R88,
R90). -/
theorem cmdFrame_fails {op : Operation} {l : Latches} {s : State} {c : Byte} {rest : List Primitive}
    (hseq : op.primitives s.cfg l = cmdFrame c ++ rest)
    (h : (∃ k < 3, s.pinAnswer k ≠ .ok) ∨ s.busAnswer 0 ≠ .ok) :
    ∃ n ≤ 4, ∃ evs f, FailsAfter op l s n evs f ∧ samplesIn evs = 0 ∧ f ≠ .timeout := by
  have hzero := pinsOk_zero s
  cases h0 : s.pinAnswer 0 with
  | err e => exact ⟨1, by omega, _, _, failsAfter_pinSet (pre := []) (by simp) hzero (busOk_zero s) hseq h0, rfl,
      Failure.noConfusion⟩
  | ok =>
    have hone : s.pinsOk 1 := Nat.forall_lt_succ_right.mpr ⟨hzero, h0⟩
    cases h1 : s.pinAnswer 1 with
    | err e => exact ⟨2, by omega, _, _, failsAfter_pinSet (pre := [.pinSet .DC .L]) (by simp [Primitive.straight])
        hone (busOk_zero s) hseq h1, rfl, Failure.noConfusion⟩
    | ok =>
      have htwo : s.pinsOk 2 := Nat.forall_lt_succ_right.mpr ⟨hone, h1⟩
      cases hb : s.busAnswer 0 with
      | err e =>
        cases hc : s.cfg.csReleaseOnFail with
        | false => exact ⟨3, by omega, _, _, failsAfter_busWrite (pre := [.pinSet .DC .L, .pinSet .CS .L])
            (by simp [Primitive.straight]) htwo (busOk_zero s) hseq hb hc, rfl, Failure.noConfusion⟩
        | true => exact ⟨4, by omega, _, _, failsAfter_release (pre := [.pinSet .DC .L, .pinSet .CS .L])
            (by simp [Primitive.straight]) htwo (busOk_zero s) hseq hb hc, rfl, Failure.noConfusion⟩
      | ok =>
        cases h2 : s.pinAnswer 2 with
        | err e =>
          have hwrite : s.busOk 1 := Nat.forall_lt_succ_right.mpr ⟨busOk_zero s, hb⟩
          exact ⟨4, by omega, _, _, failsAfter_pinSet (pre := [.pinSet .DC .L, .pinSet .CS .L, .busWrite [c]])
            (by simp [Primitive.straight]) htwo hwrite hseq h2, rfl, Failure.noConfusion⟩
        | ok =>
          have hthree : s.pinsOk 3 := Nat.forall_lt_succ_right.mpr ⟨htwo, h2⟩
          rcases h with ⟨k, hk, hne⟩ | hne
          · exact absurd (hthree k hk) hne
          · exact absurd hb hne

/-- A failure other than a timeout is a pin's or the bus's. -/
theorem Failure.code_of_ne_timeout {f : Failure} (h : f ≠ .timeout) : f.code = .pinError ∨ f.code = .busError := by
  cases f with
  | bus e => exact .inr rfl
  | pin e => exact .inl rfl
  | timeout => exact absurd rfl h

/-- Settles O38: the frame comes before the wait, and its events hold no sample. -/
theorem failedActivationTakesNoSample : Obligations.FailedActivationTakesNoSample := by
  intro s h
  obtain ⟨n, hn, evs, f, ⟨t, hrun, hend, -⟩, hsamples, hf⟩ :=
    cmdFrame_fails (op := .refresh) (l := Latches.none) (s := s) rfl h
  rw [start_eq] at hrun
  obtain ⟨-, hbusy⟩ := run_samplesRecorded hrun
  have hnone : samplesIn t.history = samplesIn s.history := by
    rw [hend.history, samplesIn_append, samplesIn_append, hsamples]
    rfl
  exact ⟨_, t, n, hn, congrArg Host.Outcome.next (start_eq _ _ s), hrun, hend.seq, hend.phase, hbusy hnone,
    hend.requests, _, hend.lastRsp, Failure.code_of_ne_timeout hf⟩

end Sys2Proof.Machine
end

section
/-! PROOFS of the family 60_exceptions.md: how an operation has answered when it has (R142, R143), the results that
each row of the result table allows (R141), and `VIOL` from `FAULTED` on (R147). -/

namespace Sys2Proof.Machine

/-! ### The answer of an operation -/

/-- How an operation ends in the failure `f` of its primitive `m`, by the last events before the response: that
primitive's event, and after a failing write the release of chip-select where it is configured (R90, R142). -/
def FailureTail (c : Config) (m : Primitive) (tail : List Event) (f : Failure) : Prop :=
  (∃ e, tail = [e] ∧ FailsWith c m e f) ∨
  (∃ P x a, m = .busWrite P ∧ tail = [.write P (.err x), .set .CS .H a] ∧ c.csReleaseOnFail = true ∧ f = .bus x)

/-- An operation that has answered has returned `OK`, or entered failure with the failure of a primitive of its
sequence, before which nothing failed. -/
theorem Stage.answered {op : Operation} {l : Latches} {s t : State} (h : Stage op l s t) (hi : t.seq = .idle) :
    (∃ evs, s.EndsWith t evs .ok none (op.phaseAfter s.phase) (s.viol || !op.validIn s.phase) s.refd) ∨
    (∃ evs tail m f, m ∈ op.primitives s.cfg l ∧ FailureTail s.cfg m tail f ∧ (∀ e ∈ evs, e.failed = false) ∧
      s.EndsWith t (evs ++ tail) f.code f.native .FAULTED (s.viol || !op.validIn s.phase) s.refd) := by
  cases h with
  | running hseq => rw [hseq] at hi; cases hi
  | releasing hseq => rw [hseq] at hi; cases hi
  | returned r => exact .inl ⟨_, (endsWith_returnOk r).1⟩
  | failed r hp hm hf =>
    exact .inr ⟨_, _, _, _, List.mem_of_getElem? hm, .inl ⟨_, rfl, hf⟩, hp.no_failure, (endsWith_failureEntry _ r).1⟩
  | released r hp hm hc =>
    exact .inr ⟨_, _, _, _, List.mem_of_getElem? hm, .inr ⟨_, _, _, rfl, rfl, hc, rfl⟩, hp.no_failure,
      (endsWith_failureEntry _ r).1⟩

/-- The last events of a failed operation are those that its response reports (R142, R143). -/
theorem FailureTail.failingTail {c : Config} {m : Primitive} {tail : List Event} {f : Failure}
    (h : FailureTail c m tail f) (ph : Phase) (v r : Bool) : failingTail c ⟨f.code, f.native, ph, v, r⟩ tail := by
  rcases h with ⟨e, rfl, hf⟩ | ⟨P, x, a, -, rfl, hc, rfl⟩
  · rcases hf with ⟨p, lvl, x, -, rfl, rfl⟩ | ⟨x, -, rfl, rfl⟩ | ⟨P, x, -, rfl, hc, rfl⟩ | ⟨-, rfl, hb, rfl⟩
    · exact .inl ⟨p, lvl, x, rfl, rfl, rfl⟩
    · exact .inr (.inl ⟨x, rfl, rfl, rfl⟩)
    · exact .inr (.inr (.inl ⟨P, x, rfl, hc, rfl, rfl⟩))
    · exact .inr (.inr (.inr (.inr ⟨rfl, hb, rfl, rfl⟩)))
  · exact .inr (.inr (.inr (.inl ⟨P, x, a, rfl, hc, rfl, rfl⟩)))

/-- All that follows an instruction: the stages of the operation it begins, or the one response that turns it away. -/
theorem exec_goesOnTo {i : Instr} {s t0 t : State} (h : exec i s = .next t0) (g : t0.GoesOnTo t) :
    (∃ op l, operation i = some op ∧ t0 = s.start op l ∧ Stage op l s t) ∨
    t = s.refuse ∨ (t = s.rejectLength ∧ operation i = some .updatePlane ∧ s.cfg.lenPolicy = .failFast) := by
  rcases exec_cases h with ⟨op, l, ho, -, rfl⟩ | ⟨rfl, -⟩ | ⟨rfl, hturned⟩
  · exact .inl ⟨op, l, ho, rfl, (stage_start op l s).goesOnTo g⟩
  · exact .inr (.inl (goesOnTo_idle rfl g))
  · exact .inr (.inr ⟨goesOnTo_idle rfl g, hturned⟩)

/-- Settles O40: a failing response comes from a failed operation, not from a request turned away; the failing
primitive ends its events. -/
theorem failureEntryIsPrecise : Obligations.FailureEntryIsPrecise := by
  intro i s t0 t r h g hi hr hcode
  rcases exec_goesOnTo h g with ⟨op, l, -, rfl, hstage⟩ | rfl | ⟨rfl, -⟩
  · rcases hstage.answered hi with ⟨evs, hend⟩ | ⟨evs, tail, m, f, -, htail, hok, hend⟩
    · cases hend.lastRsp.symm.trans hr
      simp at hcode
    · cases hend.lastRsp.symm.trans hr
      exact ⟨hend.phase, rfl, hend.viol.symm, hend.refd.symm, by rw [hend.viol, start_eq], hend.refd, hend.requests,
        evs, tail, by rw [hend.history, ← List.append_assoc], hok, htail.failingTail _ _ _⟩
  · cases hr
    simp at hcode
  · cases hr
    simp at hcode

/-! ### The result table -/

/-- RESET and BUSY_WAIT write nothing on the bus (R100, R102). -/
theorem of_busWrite_mem_primitives {op : Operation} {c : Config} {l : Latches} {P : List Byte}
    (h : .busWrite P ∈ op.primitives c l) : op ≠ .reset ∧ op ≠ .busyWait := by
  constructor <;> rintro rfl
  · simpa using resetPulse_cases h
  · simpa using busyWait_cases h

/-- Only BUSY_WAIT, INIT and REFRESH sample BUSY (R103, R112, R128). -/
theorem of_pinRead_mem_primitives {op : Operation} {s : State} {l : Latches}
    (h : .pinRead ∈ op.primitives s.cfg l) : op = .busyWait ∨ op = .init ∨ op = .refresh := by
  have hchannel : op ∉ [Operation.sendCommand, .sendData, .sendCommandData, .setAddressCounter, .updatePlane] :=
    fun hop => onChannel_sequence hop (begun op l s) _ h
  have hreset : op ≠ .reset := by
    rintro rfl
    simpa using resetPulse_cases h
  cases op <;> simp_all

/-- Every operation may answer `OK`. -/
theorem mayAnswer_ok (c : Config) (op : Operation) : mayAnswer c (opCode op) .ok = true := by cases op <;> rfl

/-- A failure of a primitive of an operation's sequence is a result that the operation's row allows. -/
theorem mayAnswer_failure {op : Operation} {s : State} {l : Latches} {m : Primitive} {tail : List Event} {f : Failure}
    (hm : m ∈ op.primitives s.cfg l) (h : FailureTail s.cfg m tail f) : mayAnswer s.cfg (opCode op) f.code = true := by
  have pin : mayAnswer s.cfg (opCode op) .pinError = true := by cases op <;> rfl
  have bus : ∀ {P}, m = .busWrite P → mayAnswer s.cfg (opCode op) .busError = true := by
    rintro P rfl
    obtain ⟨hreset, hwait⟩ := of_busWrite_mem_primitives hm
    cases op with
    | reset => exact absurd rfl hreset
    | busyWait => exact absurd rfl hwait
    | _ => rfl
  rcases h with ⟨e, -, hf⟩ | ⟨P, x, a, hw, -, -, rfl⟩
  · rcases hf with ⟨p, lvl, x, -, -, rfl⟩ | ⟨x, -, -, rfl⟩ | ⟨P, x, hw, -, -, rfl⟩ | ⟨rfl, -, hbound, rfl⟩
    · exact pin
    · exact pin
    · exact bus hw
    · rcases of_pinRead_mem_primitives hm with rfl | rfl | rfl <;> exact hbound
  · exact bus hw

/-- Settles O41: a request that runs no operation is refused; an operation's answers are `OK`, the failures of its own
primitives, and the two of a request turned away. -/
theorem resultsAreThoseOfTheTable : Obligations.ResultsAreThoseOfTheTable := by
  intro s u t q more r hs hq hst g hi hr
  have refused : u = (s.accept q more).refuse → mayAnswer s.cfg (opField q.word) r.code = true := by
    rintro rfl
    cases goesOnTo_idle rfl g
    cases hr
    rfl
  cases hd : decode q with
  | rejected why => exact refused (Host.Outcome.next.inj ((step_of_rejected hs hq hd).symm.trans hst)).symm
  | instr i =>
    rw [step_of_decoded hs hq hd] at hst
    rcases decode_operation hd with rfl | ⟨op, ho, hop, -⟩
    · exact refused (Host.Outcome.next.inj hst).symm
    rw [hop]
    rcases exec_goesOnTo hst g with ⟨op', l, ho', -, hstage⟩ | rfl | ⟨rfl, hplane, hpolicy⟩
    · cases ho.symm.trans ho'
      rcases hstage.answered hi with ⟨evs, hend⟩ | ⟨evs, tail, m, f, hm, htail, -, hend⟩
      · cases hend.lastRsp.symm.trans hr
        exact mayAnswer_ok s.cfg op
      · cases hend.lastRsp.symm.trans hr
        exact mayAnswer_failure hm htail
    · cases hr
      rfl
    · cases hr
      cases ho.symm.trans hplane
      exact beq_iff_eq.mpr hpolicy

/-! ### From `FAULTED` -/

/-- The operations that are valid in `FAULTED` (R25). -/
theorem validIn_faulted_iff (op : Operation) :
    op.validIn .FAULTED = true ↔ op ∈ [Operation.reset, .busyWait, .init] := by cases op <;> decide

/-- `VIOL`, once set, stays set along an operation (R26). -/
theorem State.GoesOnTo.viol {s t : State} (g : s.GoesOnTo t) (h : s.viol = true) : t.viol = true := by
  induction g with
  | here => exact h
  | step _ _ hst ih => exact (stickyBitsStaySet _ _ hst).1 ih

/-- Settles O44: the phase check at the start sets `VIOL`, and no step clears it. -/
theorem fromFaultedEveryOtherOperationSetsViol : Obligations.FromFaultedEveryOtherOperationSetsViol := by
  intro i op s t0 t ho hph hop h hne g
  refine g.viol ?_
  rcases exec_begins ho h with rfl | rfl | rfl
  · have hvalid : op.validIn s.phase = false := by
      rw [hph, ← Bool.not_eq_true, validIn_faulted_iff]
      exact hop
    rw [start_eq]
    simp [hvalid]
  · exact absurd rfl hne
  · exact absurd rfl hne

end Sys2Proof.Machine
end

section
/-! PROOFS of the family 70_reset_and_hazards.md: what block reset leaves (R155, R156), and INIT's waits, which pay for
the work that INIT starts (R112, R159). -/

namespace Sys2Proof.Machine

/-! ### The duty of a history that goes on -/

/-- The waiting duty after the events `evs`, from the duty `d` before them (R159). -/
def Duty.along (t : Opcodes) (d : Duty) (evs : List Event) : Duty := evs.foldl (Duty.next t) d

@[simp] theorem Duty.along_nil (t : Opcodes) (d : Duty) : d.along t [] = d := rfl
@[simp] theorem Duty.along_cons (t : Opcodes) (d : Duty) (e : Event) (evs : List Event) :
    d.along t (e :: evs) = (d.next t e).along t evs := rfl
@[simp] theorem Duty.along_append (t : Opcodes) (d : Duty) (a b : List Event) :
    d.along t (a ++ b) = (d.along t a).along t b := by simp [Duty.along]

theorem duty_append (t : Opcodes) (a b : List Event) : duty t (a ++ b) = (duty t a).along t b := by
  simp [duty, Duty.along]

/-- The duty, once broken, stays broken. -/
theorem Duty.kept_of_along {t : Opcodes} {evs : List Event} : ∀ {d : Duty}, (d.along t evs).kept = true →
    d.kept = true := by
  induction evs with
  | nil => exact id
  | cons e evs ih =>
    intro d h
    have hnext : (d.next t e).kept = true := ih h
    cases e with
    | write P a => exact ((Bool.and_eq_true _ _).mp hnext).1
    | sample a => rcases a with (_ | _) | _ <;> exact hnext
    | _ => exact hnext

/-- A response neither owes a wait nor pays one. -/
theorem duty_returnOk (t : Opcodes) (op : Operation) (s : State) :
    duty t (s.returnOk op).history = duty t s.history := duty_append t s.history [_]

theorem duty_failureEntry (t : Opcodes) (f : Failure) (s : State) :
    duty t (s.failureEntry f).history = duty t s.history := duty_append t s.history [_]

/-! ### The duty at a position of a sequence -/

/-- What the duty counts of a primitive that control has passed: a poll sleep is passed when its wait has sampled `L`. -/
def Primitive.passEvent : Primitive → Event
  | .pinSet p lvl => .set p lvl .ok
  | .busWrite P => .write P .ok
  | .sleep ms => .sleep ms
  | .pinRead => .sample (.ok .H)
  | .pollSleep _ => .sample (.ok .L)

/-- The duty past the primitives `ms`, from the duty `d` before them. -/
def Duty.past (t : Opcodes) (d : Duty) (ms : List Primitive) : Duty := d.along t (ms.map Primitive.passEvent)

@[simp] theorem Duty.past_append (t : Opcodes) (d : Duty) (a b : List Primitive) :
    d.past t (a ++ b) = (d.past t a).past t b := by simp [Duty.past]

theorem Duty.past_take_succ (t : Opcodes) (d : Duty) {ms : List Primitive} {pos : Nat} {m : Primitive}
    (hm : ms[pos]? = some m) : d.past t (ms.take (pos + 1)) = (d.past t (ms.take pos)).next t m.passEvent := by
  rw [List.take_add_one, hm, Duty.past_append]
  rfl

/-- The duty at a position does not depend on the way there: turns of a wait do not change it (R102, R159). -/
theorem Path.along_eq_past {t : Opcodes} {d : Duty} {ms : List Primitive} {n pos : Nat} {evs : List Event}
    (hw : WaitsPaired n ms) (h : Path ms pos evs) : d.along t evs = d.past t (ms.take pos) := by
  induction h with
  | start => rfl
  | @straight pos evs m _ hm hs ih =>
    have he : m.okEvent = m.passEvent := by
      cases m with
      | pinRead => cases hs
      | pollSleep => cases hs
      | _ => rfl
    rw [Duty.along_append, ih, Duty.past_take_succ t d hm, he]
    rfl
  | high _ hm ih =>
    rw [Duty.along_append, ih, Duty.past_take_succ t d hm]
    rfl
  | low _ hm ih =>
    rw [Duty.along_append, ih, Duty.past_take_succ t d (hw.after_pinRead hm), Duty.past_take_succ t d hm]
    rfl
  | again _ hm ih =>
    obtain ⟨k, hk, hread⟩ := hw.before_pollSleep hm
    cases hk
    rw [Duty.along_append, ih, Duty.past_take_succ t d hread]
    rfl

/-- A sequence that keeps the duty has kept it at each of its positions. -/
theorem Duty.kept_past_take {t : Opcodes} {d : Duty} {ms : List Primitive} (h : (d.past t ms).kept = true) (pos : Nat) :
    (d.past t (ms.take pos)).kept = true := by
  rw [← List.take_append_drop pos ms, Duty.past_append] at h
  exact Duty.kept_of_along h

/-- A failing primitive breaks the duty only where it would have broken it with `ok`. -/
theorem FailsWith.next_kept {t : Opcodes} {c : Config} {m : Primitive} {e : Event} {f : Failure}
    (h : FailsWith c m e f) (d : Duty) : (d.next t e).kept = (d.next t m.passEvent).kept := by
  rcases h with ⟨p, lvl, x, rfl, rfl, -⟩ | ⟨x, rfl, rfl, -⟩ | ⟨P, x, rfl, rfl, -⟩ | ⟨rfl, rfl, -⟩ <;> rfl

/-! ### The duty along an operation -/

section Stages

variable {t : Opcodes} {op : Operation} {l : Latches} {s u : State} {pos : Nat} {evs : List Event}

/-- The duty where an operation stands at a position, and some events further. -/
theorem duty_of_path {tail : List Event} (r : Emitted (begun op l s) u (evs ++ tail))
    (hp : Path (op.primitives s.cfg l) pos evs) :
    duty t u.history = ((duty t s.history).past t ((op.primitives s.cfg l).take pos)).along t tail := by
  rw [r.history, duty_append, Duty.along_append, hp.along_eq_past (sequence_waitsPaired s.cfg l op)]
  rfl

/-- An operation whose whole sequence keeps the duty keeps it as far as it goes, whatever the answers. -/
theorem Stage.kept {v : State} (h : Stage op l s v)
    (hk : ((duty t s.history).past t (op.primitives s.cfg l)).kept = true) : (duty t v.history).kept = true := by
  have upTo := Duty.kept_past_take hk
  have through : ∀ {pos m}, (op.primitives s.cfg l)[pos]? = some m →
      (((duty t s.history).past t ((op.primitives s.cfg l).take pos)).next t m.passEvent).kept = true := fun hm => by
    rw [← Duty.past_take_succ t _ hm]
    exact upTo _
  cases h with
  | running _ r hp =>
    rw [duty_of_path (tail := []) (by rwa [List.append_nil]) hp]
    exact upTo _
  | releasing _ r hp hm =>
    rw [duty_of_path r hp]
    exact through hm
  | returned r hp =>
    rw [duty_returnOk, duty_of_path (tail := []) (by rwa [List.append_nil]) hp]
    exact upTo _
  | failed r hp hm hf =>
    rw [duty_failureEntry, duty_of_path r hp]
    exact (hf.next_kept _).trans (through hm)
  | released r hp hm =>
    rw [duty_failureEntry, duty_of_path r hp]
    exact through hm

/-- An operation that has answered `OK` leaves the duty that its whole sequence leaves. -/
theorem Stage.duty_of_ok {v : State} {a : Response} (h : Stage op l s v) (hi : v.seq = .idle)
    (hr : v.lastRsp = some a) (hok : a.code = .ok) :
    duty t v.history = (duty t s.history).past t (op.primitives s.cfg l) := by
  have failed : ∀ {w : State} {f : Failure}, (w.failureEntry f).lastRsp = some a → a.code ≠ .ok := by
    rintro w f ha
    cases ha
    cases f <;> exact RspCode.noConfusion
  cases h with
  | running hs => cases hs.symm.trans hi
  | releasing hs => cases hs.symm.trans hi
  | returned r hp =>
    rw [duty_returnOk, duty_of_path (tail := []) (by rwa [List.append_nil]) hp, List.take_length]
    rfl
  | failed => exact absurd hok (failed hr)
  | released => exact absurd hok (failed hr)

end Stages

/-! ### The duty along INIT -/

/-- No wait is owed, and none has been missed. -/
def Duty.Settled (d : Duty) : Prop := d.owed = false ∧ d.kept = true

/-- A reset pulse sends nothing. -/
theorem Duty.kept_past_resetPulse (t : Opcodes) (c : Config) {d : Duty} (h : d.kept = true) :
    (d.past t (resetPulse c)).kept = true := h

/-- A wait that is over settles a duty that has been kept. -/
theorem Duty.settled_past_busyWait (t : Opcodes) (c : Config) {d : Duty} (h : d.kept = true) :
    (d.past t (busyWait c)).Settled := ⟨rfl, h⟩

section Frames

variable {t : Opcodes} {d : Duty} (h : d.Settled)

include h

/-- A command frame, of whatever byte, may be sent where no wait is owed. -/
theorem Duty.Settled.kept_past_cmdFrame (b : Byte) : (d.past t (cmdFrame b)).kept = true := by
  obtain ⟨howed, hkept⟩ := h
  simp [Duty.past, cmdFrame, Primitive.passEvent, Duty.next, howed, hkept]

/-- The frame of a command other than the two that start work owes no wait. -/
theorem Duty.Settled.past_cmdFrame (ht : t.distinct = true) {c : Command} (hr : c ≠ .swReset)
    (ha : c ≠ .masterActivation) : (d.past t (cmdFrame (t.byte c))).Settled := by
  have reset : t.byte c ≠ t.swReset := fun hb => hr (byte_inj ht (c' := .swReset) hb)
  have activation : t.byte c ≠ t.masterActivation := fun hb => ha (byte_inj ht (c' := .masterActivation) hb)
  have howed : d.owed = false := h.1
  refine ⟨?_, h.kept_past_cmdFrame _⟩
  simp [Duty.past, cmdFrame, Primitive.passEvent, Duty.next, startsWork, howed, reset, activation]

/-- A data frame is sent under DC = `H`, so its bytes start no work. -/
theorem Duty.Settled.past_dataFrame (P : List Byte) : (d.past t (dataFrame P)).Settled := by
  obtain ⟨howed, hkept⟩ := h
  constructor <;>
    simp [Duty.past, dataFrame, Primitive.passEvent, Duty.next, startsWork, Event.record, recordedLevel,
      knownLevel, howed, hkept]

theorem Duty.Settled.past_cmdDataFrame (ht : t.distinct = true) {c : Command} (hr : c ≠ .swReset)
    (ha : c ≠ .masterActivation) (opt : Option (List Byte)) :
    (d.past t (cmdDataFrame (t.byte c) opt)).Settled := by
  have hcmd := h.past_cmdFrame ht hr ha
  cases opt with
  | none => exact hcmd
  | some P =>
    rw [cmdDataFrame, Duty.past_append]
    exact hcmd.past_dataFrame P

end Frames

/-- Each of INIT's steps S5 to S11 sends one command, none of which starts work. -/
theorem Duty.Settled.past_configuration {c : Config} {d : Duty} (h : d.Settled) (ht : c.opcodes.distinct = true) :
    (d.past c.opcodes (configuration c)).Settled := by
  have sends : ∀ (cmd : Command) (opt : Option (List Byte)), cmd ≠ .swReset → cmd ≠ .masterActivation →
      ∀ {d : Duty}, d.Settled → (d.past c.opcodes (cmdDataFrame (c.opcodes.byte cmd) opt)).Settled :=
    fun cmd opt hr ha _ hd => hd.past_cmdDataFrame ht hr ha opt
  simp only [configuration, List.flatMap_cons, List.flatMap_nil, List.append_nil, Duty.past_append]
  have h5 := sends .driverOutputControl (some driverOutputControlPayload) (by decide) (by decide) h
  have h6 := sends .dataEntryMode (some c.demPayload) (by decide) (by decide) h5
  have h7 := sends .ramXWindow (some (ramXWindowPayload c)) (by decide) (by decide) h6
  have h8 := sends .ramYWindow (some (ramYWindowPayload c)) (by decide) (by decide) h7
  have h9 := sends .borderWaveform c.bwfPayload (by decide) (by decide) h8
  have h10 := sends .duc1 c.duc1Payload (by decide) (by decide) h9
  exact sends .duc2 c.duc2Payload (by decide) (by decide) h10

/-- INIT waits after its reset pulse and after its software reset, and only then sends the rest (R112). -/
theorem Duty.settled_past_init {c : Config} {d : Duty} (ht : c.opcodes.distinct = true) (h : d.kept = true) :
    (d.past c.opcodes (initPrimitives c)).Settled := by
  rw [initPrimitives_eq]
  simp only [Duty.past_append]
  have pulsed := Duty.settled_past_busyWait c.opcodes c (Duty.kept_past_resetPulse c.opcodes c h)
  exact (Duty.settled_past_busyWait c.opcodes c (pulsed.kept_past_cmdFrame _)).past_configuration ht

/-- Settles O34: INIT's whole sequence leaves the duty settled, so what is sent on the way there breaks nothing. -/
theorem initKeepsTheWaitingDuty : Obligations.InitKeepsTheWaitingDuty := by
  intro s t0 t hwf hkept hx g
  cases hx
  have hstage := (stage_start .init Latches.none s).goesOnTo g
  have hdistinct : s.cfg.opcodes.distinct = true := by
    simp only [Config.wellFormed, Bool.and_eq_true] at hwf
    obtain ⟨⟨h, -⟩, -⟩ := hwf
    exact h
  obtain ⟨howed, hsent⟩ := Duty.settled_past_init hdistinct hkept
  refine ⟨hstage.kept hsent, fun r hi hr hok => ?_⟩
  rw [hstage.duty_of_ok hi hr hok]
  exact howed

/-! ### Block reset -/

/-- Settles O1: the values are those of the record, and with no request an idle block stays as it is. -/
theorem resetHoldsTheSpecsValues : Obligations.ResetHoldsTheSpecsValues :=
  ⟨rfl, rfl, rfl, rfl, rfl, rfl, rfl, rfl, rfl, step_of_no_request rfl rfl⟩

/-- Settles O5: the history is empty, so every line is `U`, no bracket is open and nothing has been sent or answered. -/
theorem invariantsHoldAtReset : Obligations.InvariantsHoldAtReset :=
  ⟨fun p => by cases p <;> rfl, rfl, rfl, rfl, rfl, rfl, rfl⟩

end Sys2Proof.Machine
end
